-- ==== Sys2Proof/Word.lean ====
section
/-! DEFINITION. The bit-vector types of the TAU, each with the rule of spec/ that gives its width. -/

namespace Sys2Proof

/-- A 32-bit register of the host window, and a command word (R60, R90). -/
abbrev Word := BitVec 32

/-- One byte lane of a 32-bit register (R65). -/
abbrev Byte := BitVec 8

/-- The DATA field of an element register at the widest configuration, MAX_LEVEL = 8 (R8). A smaller
configuration uses the low W bits only. -/
abbrev Data := BitVec 256

/-- A byte offset in the 4 KiB host register window (R60). -/
abbrev Offset := BitVec 12

end Sys2Proof
end

