-- ==== Sys2Proof/Syntax.lean ====
section
/-! DEFINITION. The nine commands of the TAU, one constructor per row of spec/opcode_table.json. -/

namespace Sys2Proof

/-- The index of an element register e0 to e7 (R9, R92). -/
abbrev RegIdx := Fin 8

/-- The level immediate LVL, 0 to 15 (R92). -/
abbrev LevelImm := Fin 16

/-- A command (R93). Operands stand in assembler order, destination first (R107). -/
inductive Instr where
  /-- ADD rd, rs1, rs2 (R141). -/
  | add (rd rs1 rs2 : RegIdx)
  /-- MUL rd, rs1, rs2 (R157). -/
  | mul (rd rs1 rs2 : RegIdx)
  /-- INV rd, rs1 (R174). -/
  | inv (rd rs1 : RegIdx)
  /-- DIV rd, rs1, rs2 (R201). -/
  | div (rd rs1 rs2 : RegIdx)
  /-- HI rd, rs1 (R126). -/
  | hi (rd rs1 : RegIdx)
  /-- LO rd, rs1 (R127). -/
  | lo (rd rs1 : RegIdx)
  /-- JOIN rd, rs1, rs2: rs1 is the hi half, rs2 the lo half (R128). -/
  | join (rd rs1 rs2 : RegIdx)
  /-- ZERO rd, #lvl (R129). -/
  | zero (rd : RegIdx) (lvl : LevelImm)
  /-- ONE rd, #lvl (R130). -/
  | one (rd : RegIdx) (lvl : LevelImm)
deriving DecidableEq, Repr

/-- The destination register of a command: every command has exactly one (R42, D27). -/
def Instr.dest : Instr → RegIdx
  | .add rd _ _ => rd
  | .mul rd _ _ => rd
  | .inv rd _ => rd
  | .div rd _ _ => rd
  | .hi rd _ => rd
  | .lo rd _ => rd
  | .join rd _ _ => rd
  | .zero rd _ => rd
  | .one rd _ => rd

/-- The source registers a command reads, in the order it reads them (R93, R103). -/
def Instr.sources : Instr → List RegIdx
  | .add _ rs1 rs2 => [rs1, rs2]
  | .mul _ rs1 rs2 => [rs1, rs2]
  | .inv _ rs1 => [rs1]
  | .div _ rs1 rs2 => [rs1, rs2]
  | .hi _ rs1 => [rs1]
  | .lo _ rs1 => [rs1]
  | .join _ rs1 rs2 => [rs1, rs2]
  | .zero _ _ => []
  | .one _ _ => []

end Sys2Proof
end

