-- ==== Sys2Proof/WellFormed.lean ====
section
/-! DEFINITION. Well-formed commands: the fields of the C-format (R91) and which of them a legal command may set
(R94, R95). The register and level operands of Instr are in range by their types. -/

namespace Sys2Proof

/-- The fields of the C-format (R91), as raw bits. -/
structure CFields where
  opc : BitVec 4
  rd : BitVec 3
  rs1 : BitVec 3
  rs2 : BitVec 3
  lvl : BitVec 4
  rsv : BitVec 15
deriving DecidableEq, Repr

/-- OPC names a command: 0x1 to 0x9 (R93). -/
def CFields.opcodeAssigned (f : CFields) : Bool := decide (1 ≤ f.opc.toNat) && decide (f.opc.toNat ≤ 9)

/-- RS1 is an operand of the opcode (R93). -/
def CFields.usesRs1 (f : CFields) : Bool := decide (1 ≤ f.opc.toNat) && decide (f.opc.toNat ≤ 7)

/-- RS2 is an operand of the opcode (R93). -/
def CFields.usesRs2 (f : CFields) : Bool := f.opc == 1 || f.opc == 2 || f.opc == 4 || f.opc == 7

/-- LVL is an operand of the opcode (R93). -/
def CFields.usesLvl (f : CFields) : Bool := f.opc == 8 || f.opc == 9

/-- The fields form a legal command (R94, R95): an assigned opcode, RSV zero, and every field that is
no operand of the opcode zero. -/
def CFields.wellFormed (f : CFields) : Bool :=
  f.opcodeAssigned && f.rsv == 0 && (f.usesRs1 || f.rs1 == 0) && (f.usesRs2 || f.rs2 == 0)
    && (f.usesLvl || f.lvl == 0)

/-- The C-format fields of a command; a field it does not use is 0 (R99). -/
def Instr.fields : Instr → CFields
  | .add rd rs1 rs2 => ⟨1, .ofFin rd, .ofFin rs1, .ofFin rs2, 0, 0⟩
  | .mul rd rs1 rs2 => ⟨2, .ofFin rd, .ofFin rs1, .ofFin rs2, 0, 0⟩
  | .inv rd rs1 => ⟨3, .ofFin rd, .ofFin rs1, 0, 0, 0⟩
  | .div rd rs1 rs2 => ⟨4, .ofFin rd, .ofFin rs1, .ofFin rs2, 0, 0⟩
  | .hi rd rs1 => ⟨5, .ofFin rd, .ofFin rs1, 0, 0, 0⟩
  | .lo rd rs1 => ⟨6, .ofFin rd, .ofFin rs1, 0, 0, 0⟩
  | .join rd rs1 rs2 => ⟨7, .ofFin rd, .ofFin rs1, .ofFin rs2, 0, 0⟩
  | .zero rd lvl => ⟨8, .ofFin rd, 0, 0, .ofFin lvl, 0⟩
  | .one rd lvl => ⟨9, .ofFin rd, 0, 0, .ofFin lvl, 0⟩

/-- A command is well-formed when its fields form a legal C-format word. -/
def Instr.wellFormed (i : Instr) : Bool := i.fields.wellFormed

end Sys2Proof
end

