-- ==== Sys2Proof/Decode.lean ====
section
/-! DEFINITION. Decoding a command word (R94, R95, R98), and after it the encoder (R99). -/

namespace Sys2Proof

/-- The mnemonics of the opcode map (R93). -/
inductive Mnemonic where
  | add | mul | inv | div | hi | lo | join | zero | one
deriving DecidableEq, Repr

/-- Why a word is refused as a command (R95). Whichever it is, the machine raises ILLEGAL_COMMAND. -/
inductive DecodeReject where
  /-- OPC is 0x0 or 0xA to 0xF. -/
  | unassignedOpcode
  /-- A bit of RSV [31:17] is 1. -/
  | reservedBitSet
  /-- A field that the opcode does not use is nonzero. -/
  | unusedFieldSet
  /-- Fewer than the four bytes of a command word were given. -/
  | truncated
deriving DecidableEq, Repr

/-- One row of the mask and match table (R94). -/
structure DecodeRow where
  mnemonic : Mnemonic
  mask : Word
  pattern : Word
deriving DecidableEq, Repr

/-- The rows of R94, in its order. -/
def decodeTable : List DecodeRow :=
  [⟨.add, 0xFFFFE00F#32, 0x00000001#32⟩,
   ⟨.mul, 0xFFFFE00F#32, 0x00000002#32⟩,
   ⟨.inv, 0xFFFFFC0F#32, 0x00000003#32⟩,
   ⟨.div, 0xFFFFE00F#32, 0x00000004#32⟩,
   ⟨.hi, 0xFFFFFC0F#32, 0x00000005#32⟩,
   ⟨.lo, 0xFFFFFC0F#32, 0x00000006#32⟩,
   ⟨.join, 0xFFFFE00F#32, 0x00000007#32⟩,
   ⟨.zero, 0xFFFE1F8F#32, 0x00000008#32⟩,
   ⟨.one, 0xFFFE1F8F#32, 0x00000009#32⟩]

/-- OPC, bits 3:0 (R91). -/
def fieldOpc (w : Word) : BitVec 4 := w.extractLsb' 0 4

/-- RD, bits 6:4 (R91). -/
def fieldRd (w : Word) : BitVec 3 := w.extractLsb' 4 3

/-- RS1, bits 9:7 (R91). -/
def fieldRs1 (w : Word) : BitVec 3 := w.extractLsb' 7 3

/-- RS2, bits 12:10 (R91). -/
def fieldRs2 (w : Word) : BitVec 3 := w.extractLsb' 10 3

/-- LVL, bits 16:13 (R91). -/
def fieldLvl (w : Word) : BitVec 4 := w.extractLsb' 13 4

/-- RSV, bits 31:17 (R91). -/
def fieldRsv (w : Word) : BitVec 15 := w.extractLsb' 17 15

/-- The six fields of a word (R91). -/
def wordFields (w : Word) : CFields :=
  ⟨fieldOpc w, fieldRd w, fieldRs1 w, fieldRs2 w, fieldLvl w, fieldRsv w⟩

/-- The command of a mnemonic, its operands taken from the fields of the word (R92, R93). -/
def operandsOf (m : Mnemonic) (w : Word) : Instr :=
  let rd : RegIdx := (fieldRd w).toFin
  let rs1 : RegIdx := (fieldRs1 w).toFin
  let rs2 : RegIdx := (fieldRs2 w).toFin
  let lvl : LevelImm := (fieldLvl w).toFin
  match m with
  | .add => .add rd rs1 rs2
  | .mul => .mul rd rs1 rs2
  | .inv => .inv rd rs1
  | .div => .div rd rs1 rs2
  | .hi => .hi rd rs1
  | .lo => .lo rd rs1
  | .join => .join rd rs1 rs2
  | .zero => .zero rd lvl
  | .one => .one rd lvl

/-- The name of what makes a word illegal (R95), the opcode first. -/
def rejectReason (w : Word) : DecodeReject :=
  if fieldOpc w = 0 ∨ 10 ≤ (fieldOpc w).toNat then .unassignedOpcode
  else if fieldRsv w ≠ 0 then .reservedBitSet
  else .unusedFieldSet

/-- Decode (R98): the first row whose mask and match the word meets; else illegal (R95, R96). -/
def decode (w : Word) : Except DecodeReject Instr :=
  match decodeTable.find? (fun r => w &&& r.mask == r.pattern) with
  | some r => .ok (operandsOf r.mnemonic w)
  | none => .error (rejectReason w)

/-- The word with the given byte lanes; lane m is bits 8m+7 to 8m (R65). -/
def wordOfLanes (b0 b1 b2 b3 : Byte) : Word :=
  b0.setWidth 32 ||| (b1.setWidth 32 <<< 8) ||| (b2.setWidth 32 <<< 16) ||| (b3.setWidth 32 <<< 24)

/-- Byte lane m of a word (R65). -/
def byteLane (m : Nat) (w : Word) : Byte := w.extractLsb' (8 * m) 8

/-- Decode a command from bytes, lowest lane first. It consumes exactly one word (R90) and returns the
bytes that follow. -/
def decodeBytes : List Byte → Except DecodeReject (Instr × List Byte)
  | b0 :: b1 :: b2 :: b3 :: rest =>
    match decode (wordOfLanes b0 b1 b2 b3) with
    | .ok i => .ok (i, rest)
    | .error e => .error e
  | _ => .error .truncated

/-- The instruction that the decoder reads from an instruction of the opcode table whose bits are w;
its bits at or above nbits are 0. -/
def decodeTableWord (nbits w : Nat) : Option Instr :=
  let v := w % 2 ^ nbits
  if 2 ^ 32 ≤ v then none
  else
    match decodeBytes [.ofNat 8 v, .ofNat 8 (v / 2 ^ 8), .ofNat 8 (v / 2 ^ 16), .ofNat 8 (v / 2 ^ 24)] with
    | .ok (i, _) => some i
    | .error _ => none

/-- A word laid out from its fields (R99). -/
def cWord (lvl : LevelImm) (rs2 rs1 rd : RegIdx) (opc : Word) : Word :=
  (BitVec.ofNat 32 lvl.val <<< 13) ||| (BitVec.ofNat 32 rs2.val <<< 10) |||
    (BitVec.ofNat 32 rs1.val <<< 7) ||| (BitVec.ofNat 32 rd.val <<< 4) ||| opc

/-- Encode (R99): the fields that a mnemonic does not use are 0. -/
def encode : Instr → Word
  | .add rd rs1 rs2 => cWord 0 rs2 rs1 rd 0x1
  | .mul rd rs1 rs2 => cWord 0 rs2 rs1 rd 0x2
  | .inv rd rs1 => cWord 0 0 rs1 rd 0x3
  | .div rd rs1 rs2 => cWord 0 rs2 rs1 rd 0x4
  | .hi rd rs1 => cWord 0 0 rs1 rd 0x5
  | .lo rd rs1 => cWord 0 0 rs1 rd 0x6
  | .join rd rs1 rs2 => cWord 0 rs2 rs1 rd 0x7
  | .zero rd lvl => cWord lvl 0 0 rd 0x8
  | .one rd lvl => cWord lvl 0 0 rd 0x9

end Sys2Proof
end

