-- ==== Sys2Proof/Config.lean ====
section
/-! DEFINITION. What an implementation fixes (MAX_LEVEL, CONSTS) and the free values, which nothing constrains. -/

namespace Sys2Proof

/-- The configuration of one TAU (R7, R10, R38): fixed when the hardware is built. -/
structure Params where
  /-- MAX_LEVEL, 0 to 8 (R7). -/
  maxLevel : Fin 9
  /-- CONSTS (R10): entry j is c_(j+1), an element of T_j; only its low 2^j bits are read. -/
  consts : Vector (BitVec 128) 8
deriving DecidableEq, Repr

namespace Config

/-- FREE VALUE (R240, U7): the word the n-th use of a free value returns to a host read made while
reset is asserted. -/
opaque freeReadData : Nat → Word

/-- FREE VALUE (R11, R246, U4): how many of the host's next reads of STATUS, ID or CONFIG arrive while
a command is still executing. -/
opaque overlap : Nat → Nat

/-- OPEN PARAMETER (R12, U5): the number of the 4 KiB page at which the window stands. -/
opaque tauBasePage : Nat

/-- TAU_BASE (R12): a 4 KiB aligned host address. -/
def tauBase : Nat := 4096 * tauBasePage

end Config

end Sys2Proof
end

