-- ==== Sys2Proof/Machine/Constants.lean ====
section
/-! DEFINITION. The configuration as the machine reads it: the width W, the extension constants c_k, and the default table. -/

namespace Sys2Proof.Machine

/-- W = 2^MAX_LEVEL, the width of DATA (R8). -/
def dataWidth (p : Params) : Nat := 2 ^ p.maxLevel.val

/-- c_(k+1), the constant of level k+1, an element of T_k (R10, R35). -/
def extConst (p : Params) (k : Nat) : BitVec (2 ^ k) := (p.consts[k]?.getD 0).setWidth (2 ^ k)

/-- The default c_(k+1) (R36): c_1 = 1, and c_(k+2) = X_k, bit 2^k of T_(k+1).
PRESUMED for c_3 to c_8: the spec supplies them from general knowledge (93 G1; log 3). -/
def defaultConst : Nat → BitVec 128
  | 0 => 1
  | k + 1 => 1#128 <<< (2 ^ k)

/-- The default CONSTS (R36). -/
def defaultConsts : Vector (BitVec 128) 8 :=
  #v[defaultConst 0, defaultConst 1, defaultConst 2, defaultConst 3,
     defaultConst 4, defaultConst 5, defaultConst 6, defaultConst 7]

/-- A TAU with the default CONSTS and the given MAX_LEVEL. -/
def defaultParams (maxLevel : Fin 9) : Params := ⟨maxLevel, defaultConsts⟩

/-- The reference configuration (R7, R36): MAX_LEVEL = 7 and the default CONSTS. -/
def referenceParams : Params := defaultParams 7

end Sys2Proof.Machine
end

