-- ==== Sys2Proof/Machine/ErrorCode.lean ====
section
/-! DEFINITION. The errors a command can raise and their codes (R210). -/

namespace Sys2Proof.Machine

/-- The errors of R210. The first three are the source's error kinds ShapeError, LevelMismatchError and
DivisionByZeroError. An error is an architectural event, not a fault of the machine. -/
inductive ErrorCode where
  | shape
  | levelMismatch
  | divByZero
  | emptyOperand
  | illegalCommand
deriving DecidableEq, Repr

end Sys2Proof.Machine
end

