-- ==== Sys2Proof/Machine/Field.lean ====
section
/-! DEFINITION. The arithmetic of the tower T_0, T_1, … as pure functions with an explicit level (R15): base field,
split and join, addition, multiplication, inversion, division. An element of T_k is a bit vector of 2^k bits (R31). -/

namespace Sys2Proof.Machine

/-- A TowerElement (R31): a level and 2^level bits. Equality is equality of level and bits (R34). -/
structure TowerElement where
  level : Nat
  bits : BitVec (2 ^ level)
deriving DecidableEq, Repr

/-- The bits of an element as an element of T_k. It is used where k is the element's own level, and
then changes nothing. -/
def TowerElement.bitsAt (a : TowerElement) (k : Nat) : BitVec (2 ^ k) := a.bits.setWidth (2 ^ k)

/-- Base-field addition (R190). -/
def bfAdd (a b : BitVec 1) : BitVec 1 := a ^^^ b

/-- Base-field multiplication (R191). -/
def bfMul (a b : BitVec 1) : BitVec 1 := a &&& b

/-- Base-field inversion (R192), the one place where division by zero originates. -/
def bfInv (a : BitVec 1) : Except ErrorCode (BitVec 1) := if a = 1 then .ok 1 else .error .divByZero

/-- The hi half of an element of T_(k+1): the coefficient of the generator X_k (R32, R121). -/
def hiHalf (k : Nat) (v : BitVec (2 ^ (k + 1))) : BitVec (2 ^ k) := v.extractLsb' (2 ^ k) (2 ^ k)

/-- The lo half of an element of T_(k+1) (R32, R121). -/
def loHalf (k : Nat) (v : BitVec (2 ^ (k + 1))) : BitVec (2 ^ k) := v.extractLsb' 0 (2 ^ k)

/-- `join` (R122): hi is the more significant half. -/
def joinHalves (k : Nat) (hi lo : BitVec (2 ^ k)) : BitVec (2 ^ (k + 1)) :=
  (hi ++ lo).cast (by rw [Nat.pow_succ]; omega)

/-- `split` (R121), (hi, lo): it fails on an element of level 0, which has no halves. -/
def splitElem : TowerElement → Except ErrorCode (TowerElement × TowerElement)
  | ⟨0, _⟩ => .error .shape
  | ⟨k + 1, v⟩ => .ok (⟨k, hiHalf k v⟩, ⟨k, loHalf k v⟩)

/-- The zero element of T_k (R123). -/
def zeroElem (k : Nat) : BitVec (2 ^ k) := 0

/-- The one element of T_k, by the recursion of R124. -/
def oneElem : (k : Nat) → BitVec (2 ^ k)
  | 0 => 1
  | k + 1 => joinHalves k (zeroElem k) (oneElem k)

/-- The generator X_k of T_(k+1) (R14): hi half one, lo half zero. -/
def generator (k : Nat) : BitVec (2 ^ (k + 1)) := joinHalves k (oneElem k) (zeroElem k)

/-- Addition in T_k is bitwise XOR (R120, R140). -/
def addElem (k : Nat) (a b : BitVec (2 ^ k)) : BitVec (2 ^ k) := a ^^^ b

/-- Multiplication in T_k (R150), which folds X^2 = c X + 1 at every level (R35). -/
def mulElem (p : Params) : (k : Nat) → BitVec (2 ^ k) → BitVec (2 ^ k) → BitVec (2 ^ k)
  | 0, a, b => bfMul a b
  | k + 1, a, b =>
    let a1 := hiHalf k a
    let a0 := loHalf k a
    let b1 := hiHalf k b
    let b0 := loHalf k b
    let p11 := mulElem p k a1 b1
    let p10 := mulElem p k a1 b0
    let p01 := mulElem p k a0 b1
    let p00 := mulElem p k a0 b0
    joinHalves k (addElem k (addElem k p10 p01) (mulElem p k (extConst p k) p11)) (addElem k p00 p11)

/-- a0 + c a1, the lo half of the Frobenius conjugate of an element of T_(k+1) (R170, R175). -/
def conjLo (p : Params) (k : Nat) (a : BitVec (2 ^ (k + 1))) : BitVec (2 ^ k) :=
  addElem k (loHalf k a) (mulElem p k (extConst p k) (hiHalf k a))

/-- The norm of an element of T_(k+1) down to T_k (R170): a0 (a0 + c a1) + a1^2. -/
def normElem (p : Params) (k : Nat) (a : BitVec (2 ^ (k + 1))) : BitVec (2 ^ k) :=
  addElem k (mulElem p k (loHalf k a) (conjLo p k a)) (mulElem p k (hiHalf k a) (hiHalf k a))

/-- Fan–Paar inversion in T_k (R171). A failure of the recursive call is returned unchanged (R172). -/
def invElem (p : Params) : (k : Nat) → BitVec (2 ^ k) → Except ErrorCode (BitVec (2 ^ k))
  | 0, a => bfInv a
  | k + 1, a =>
    match invElem p k (normElem p k a) with
    | .error e => .error e
    | .ok ninv => .ok (joinHalves k (mulElem p k ninv (hiHalf k a)) (mulElem p k ninv (conjLo p k a)))

/-- Division in T_k (R200): a times the inverse of b. -/
def divElem (p : Params) (k : Nat) (a b : BitVec (2 ^ k)) : Except ErrorCode (BitVec (2 ^ k)) :=
  match invElem p k b with
  | .error e => .error e
  | .ok r => .ok (mulElem p k a r)

end Sys2Proof.Machine
end

