-- ==== Sys2Proof/Machine/State.lean ====
section
/-! DEFINITION. The state of the TAU as plain data, its reset value, and the reasons a step can stop. -/

namespace Sys2Proof.Machine

/-- An element register (R40). -/
structure ElementReg where
  /-- 1 if the register holds an element. -/
  valid : Bool
  /-- The element's level, any value 0 to 15 (R48). -/
  level : BitVec 4
  /-- Bit i is b_i of the element for i < 2^level; the W low bits exist (R8, R49). -/
  data : Data
deriving DecidableEq, Repr

/-- What a host access does at its offset (R243). -/
inductive AccessKind where
  | read
  | write (value : Word)
deriving DecidableEq, Repr

/-- One host access to the window: its size in bytes, its offset, and what it does (R60, R66). The data
of a write that is no 32-bit access is not represented, since no such access is served. -/
structure Access where
  size : Nat
  offset : Offset
  kind : AccessKind
deriving DecidableEq, Repr

/-- What the outside world does to the TAU: a host access, or a level of the reset input (R240, R243). -/
inductive HostEvent where
  | access (a : Access)
  | resetLine (asserted : Bool)
deriving DecidableEq, Repr

/-- The state (R39), the configuration, and the fields the model adds to carry its inputs and outputs. -/
structure State where
  /-- MAX_LEVEL and CONSTS: configuration, written by nothing (R38; log 2). -/
  params : Params
  /-- The element registers E0 to E7 (R40). -/
  e : Vector ElementReg 8
  /-- STATUS.BUSY (R46): 1 only inside the step that executes a command (R102). -/
  busy : Bool
  /-- STATUS.ERR (R46). -/
  err : Bool
  /-- STATUS.DROP (R46). -/
  drop : Bool
  /-- STATUS.ERR_CODE (R46, R210). -/
  errCode : BitVec 4
  /-- ERR_CMD (R47). -/
  errCmd : Word
  /-- The reset input is asserted (R240; log 6). -/
  resetIn : Bool
  /-- The host's accesses and reset edges still to be served, oldest first (log 1). -/
  host : List HostEvent
  /-- The words returned to the host's reads, newest first (log 1). -/
  replies : List Word
  /-- How many free values have been used (log 4, log 6). -/
  freeCount : Nat
deriving DecidableEq, Repr

/-- A fault stops the machine. The spec gives the TAU none: every command error is recorded and the
machine goes on (R213, R214), so this type has no constructor. -/
inductive Fault where
deriving DecidableEq, Repr

/-- Why a step has no meaning. -/
inductive Refusal where
  /-- Raised by exec for an instruction that has no meaning yet. Safe: nothing is claimed of it. -/
  | notModelled (mnemonic : String)
  /-- Raised by a step whose next host access is not a 32-bit access at a multiple of 4 (R66, U6: "refuse").
  Safe: the spec gives such an access no behaviour. -/
  | unsupportedAccess
deriving DecidableEq, Repr

/-- An element register that holds nothing (R55). -/
def emptyReg : ElementReg := ⟨false, 0, 0⟩

/-- The machine right after reset (R55), for a given configuration, with nothing pending from the host. -/
def State.resetWith (p : Params) : State where
  params := p
  e := Vector.replicate 8 emptyReg
  busy := false
  err := false
  drop := false
  errCode := 0
  errCmd := 0
  resetIn := false
  host := []
  replies := []
  freeCount := 0

/-- The machine right after reset in the reference configuration (R7, R55; log 2). -/
def State.reset : State := State.resetWith referenceParams

end Sys2Proof.Machine
end

