-- ==== Sys2Proof/Machine/Flags.lean ====
section
/-! DEFINITION. The status bits: the codes of the errors (R210) and the STATUS word (R46). The TAU has no arithmetic
flags (R52). -/

namespace Sys2Proof.Machine

/-- STATUS.ERR_CODE of an error (R210). -/
def errorCodeBits : ErrorCode → BitVec 4
  | .shape => 1
  | .levelMismatch => 2
  | .divByZero => 3
  | .emptyOperand => 4
  | .illegalCommand => 5

/-- One bit of a register word, at a position. -/
def bitAt (b : Bool) (pos : Nat) : Word := (BitVec.ofBool b).setWidth 32 <<< pos

/-- The STATUS word (R46): BUSY 0, ERR 1, DROP 2, ERR_CODE 7:4, every other bit 0. -/
def statusWord (s : State) : Word :=
  bitAt s.busy 0 ||| bitAt s.err 1 ||| bitAt s.drop 2 ||| (s.errCode.setWidth 32 <<< 4)

end Sys2Proof.Machine
end

