-- ==== Sys2Proof/Machine/Ops.lean ====
section
/-! DEFINITION. The named operations over the state: element registers, the result write, taking an error and the
return from it, reset. -/

namespace Sys2Proof.Machine

/-- The outcome of a step or a command. -/
abbrev Outcome := Host.Outcome State Fault Refusal

/-- E[i] (R40). -/
def State.reg (s : State) (i : RegIdx) : ElementReg := s.e[i.val]

/-- E[i] replaced. -/
def State.setReg (s : State) (i : RegIdx) (r : ElementReg) : State := { s with e := s.e.set i.val r }

/-- The element register that holds an element: VALID, its level, and its bits extended with zeros to the
width of DATA (R15, R105). -/
def regOf (a : TowerElement) : ElementReg := ⟨true, BitVec.ofNat 4 a.level, a.bits.setWidth 256⟩

/-- `wr` (R105): a command's result write. -/
def State.writeResult (s : State) (rd : RegIdx) (a : TowerElement) : State := s.setReg rd (regOf a)

/-- Taking an error (R213, R214): the record is written, and nothing else changes. -/
def State.raise (s : State) (code : ErrorCode) (command : Word) : State :=
  { s with err := true, errCode := errorCodeBits code, errCmd := command }

/-- The return from an error (R217): the host clears the whole record. -/
def State.clearError (s : State) : State :=
  { s with err := false, drop := false, errCode := 0, errCmd := 0 }

/-- STATUS.BUSY set to a value (R102). -/
def State.setBusy (s : State) (b : Bool) : State := { s with busy := b }

/-- A word returned to a host read. -/
def State.reply (s : State) (v : Word) : State := { s with replies := v :: s.replies }

/-- Every piece of state takes its reset value (R55, R240). The configuration stays (R38), and so do the
host's pending accesses, what it has been told, and the level of the reset input. -/
def State.applyReset (s : State) : State :=
  { State.resetWith s.params with
    resetIn := s.resetIn, host := s.host, replies := s.replies, freeCount := s.freeCount }

/-- How a command ends (R104, R105, R213): its result is written to rd, or its error is recorded with the
command's own word in ERR_CMD and no register is written. -/
def finishCommand (i : Instr) (command : Word) (s : State) (r : Except ErrorCode TowerElement) : Outcome :=
  match r with
  | .ok a => .next (s.writeResult i.dest a)
  | .error code => .next (s.raise code command)

/-- The next state of an outcome changed by a function; a stop stays as it is. -/
def mapNext (f : State → State) : Outcome → Outcome
  | .next s => .next (f s)
  | .fault r => .fault r
  | .refused r => .refused r

end Sys2Proof.Machine
end

