-- ==== Sys2Proof/Machine/Operands.lean ====
section
/-! DEFINITION. The operand forms of the commands: a source register, two sources, two sources of one level, and the
level immediate (R103, R106). -/

namespace Sys2Proof.Machine

/-- `src(i)` (R103): empty first, then the depth guard, then the element's own 2^k bits. -/
def readSource (s : State) (i : RegIdx) : Except ErrorCode TowerElement :=
  if (s.reg i).valid = false then .error .emptyOperand
  else if s.params.maxLevel.val < (s.reg i).level.toNat then .error .shape
  else .ok ⟨(s.reg i).level.toNat, (s.reg i).data.setWidth (2 ^ (s.reg i).level.toNat)⟩

/-- Two sources, RS1 completely before RS2 (R103, R216). -/
def readSources (s : State) (i j : RegIdx) : Except ErrorCode (TowerElement × TowerElement) :=
  match readSource s i with
  | .error c => .error c
  | .ok a =>
    match readSource s j with
    | .error c => .error c
    | .ok b => .ok (a, b)

/-- Two sources of a field operation: they must have one level (R211). -/
def readFieldSources (s : State) (i j : RegIdx) : Except ErrorCode (TowerElement × TowerElement) :=
  match readSources s i j with
  | .error c => .error c
  | .ok (a, b) => if a.level = b.level then .ok (a, b) else .error .levelMismatch

/-- `lvl_ok` (R106): the level of ZERO and ONE, not above MAX_LEVEL. -/
def readLevel (s : State) (lvl : LevelImm) : Except ErrorCode Nat :=
  if s.params.maxLevel.val < lvl.val then .error .shape else .ok lvl.val

end Sys2Proof.Machine
end

