-- ==== Sys2Proof/Machine/Add.lean ====
section
/-! DEFINITION. ADD (41_add.md). -/

namespace Sys2Proof.Machine

/-- The result of ADD (R141). -/
def addResult (s : State) (rs1 rs2 : RegIdx) : Except ErrorCode TowerElement :=
  match readFieldSources s rs1 rs2 with
  | .error c => .error c
  | .ok (a, b) => .ok ⟨a.level, addElem a.level a.bits (b.bitsAt a.level)⟩

/-- ADD rd, rs1, rs2 (R141). -/
def execAdd (rd rs1 rs2 : RegIdx) (s : State) : Outcome :=
  finishCommand (.add rd rs1 rs2) (encode (.add rd rs1 rs2)) s (addResult s rs1 rs2)

end Sys2Proof.Machine
end

