-- ==== Sys2Proof/Machine/BitVector.lean ====
section
/-! DEFINITION. HI, LO, JOIN, ZERO and ONE (40_bitvector.md). -/

namespace Sys2Proof.Machine

/-- Both halves of a source (R126, R127): SHAPE if it has level 0. -/
def splitSource (s : State) (rs1 : RegIdx) : Except ErrorCode (TowerElement × TowerElement) :=
  match readSource s rs1 with
  | .error c => .error c
  | .ok a => splitElem a

/-- The result of HI (R126). -/
def hiResult (s : State) (rs1 : RegIdx) : Except ErrorCode TowerElement :=
  match splitSource s rs1 with
  | .error c => .error c
  | .ok (h, _) => .ok h

/-- HI rd, rs1 (R126). -/
def execHi (rd rs1 : RegIdx) (s : State) : Outcome :=
  finishCommand (.hi rd rs1) (encode (.hi rd rs1)) s (hiResult s rs1)

/-- The result of LO (R127). -/
def loResult (s : State) (rs1 : RegIdx) : Except ErrorCode TowerElement :=
  match splitSource s rs1 with
  | .error c => .error c
  | .ok (_, l) => .ok l

/-- LO rd, rs1 (R127). -/
def execLo (rd rs1 : RegIdx) (s : State) : Outcome :=
  finishCommand (.lo rd rs1) (encode (.lo rd rs1)) s (loResult s rs1)

/-- The result of JOIN (R128): SHAPE for unequal levels, then for a result above MAX_LEVEL. -/
def joinResult (s : State) (rs1 rs2 : RegIdx) : Except ErrorCode TowerElement :=
  match readSources s rs1 rs2 with
  | .error c => .error c
  | .ok (h, l) =>
    if h.level ≠ l.level then .error .shape
    else if s.params.maxLevel.val < h.level + 1 then .error .shape
    else .ok ⟨h.level + 1, joinHalves h.level h.bits (l.bitsAt h.level)⟩

/-- JOIN rd, rs1, rs2 (R128). -/
def execJoin (rd rs1 rs2 : RegIdx) (s : State) : Outcome :=
  finishCommand (.join rd rs1 rs2) (encode (.join rd rs1 rs2)) s (joinResult s rs1 rs2)

/-- The result of ZERO (R129). -/
def zeroResult (s : State) (lvl : LevelImm) : Except ErrorCode TowerElement :=
  match readLevel s lvl with
  | .error c => .error c
  | .ok k => .ok ⟨k, zeroElem k⟩

/-- ZERO rd, #lvl (R129). -/
def execZero (rd : RegIdx) (lvl : LevelImm) (s : State) : Outcome :=
  finishCommand (.zero rd lvl) (encode (.zero rd lvl)) s (zeroResult s lvl)

/-- The result of ONE (R130). -/
def oneResult (s : State) (lvl : LevelImm) : Except ErrorCode TowerElement :=
  match readLevel s lvl with
  | .error c => .error c
  | .ok k => .ok ⟨k, oneElem k⟩

/-- ONE rd, #lvl (R130). -/
def execOne (rd : RegIdx) (lvl : LevelImm) (s : State) : Outcome :=
  finishCommand (.one rd lvl) (encode (.one rd lvl)) s (oneResult s lvl)

end Sys2Proof.Machine
end

