-- ==== Sys2Proof/Machine/Divide.lean ====
section
/-! DEFINITION. DIV (45_divide.md). -/

namespace Sys2Proof.Machine

/-- The result of DIV (R201): RS1 is the dividend, RS2 the divisor. -/
def divResult (s : State) (rs1 rs2 : RegIdx) : Except ErrorCode TowerElement :=
  match readFieldSources s rs1 rs2 with
  | .error c => .error c
  | .ok (a, b) =>
    match divElem s.params a.level a.bits (b.bitsAt a.level) with
    | .error c => .error c
    | .ok r => .ok ⟨a.level, r⟩

/-- DIV rd, rs1, rs2 (R201). -/
def execDiv (rd rs1 rs2 : RegIdx) (s : State) : Outcome :=
  finishCommand (.div rd rs1 rs2) (encode (.div rd rs1 rs2)) s (divResult s rs1 rs2)

end Sys2Proof.Machine
end

