-- ==== Sys2Proof/Machine/Invert.lean ====
section
/-! DEFINITION. INV (43_invert.md). -/

namespace Sys2Proof.Machine

/-- The result of INV (R174). -/
def invResult (s : State) (rs1 : RegIdx) : Except ErrorCode TowerElement :=
  match readSource s rs1 with
  | .error c => .error c
  | .ok a =>
    match invElem s.params a.level a.bits with
    | .error c => .error c
    | .ok r => .ok ⟨a.level, r⟩

/-- INV rd, rs1 (R174). -/
def execInv (rd rs1 : RegIdx) (s : State) : Outcome :=
  finishCommand (.inv rd rs1) (encode (.inv rd rs1)) s (invResult s rs1)

end Sys2Proof.Machine
end

