-- ==== Sys2Proof/Machine/Multiply.lean ====
section
/-! DEFINITION. MUL (42_multiply.md). -/

namespace Sys2Proof.Machine

/-- The result of MUL (R157). -/
def mulResult (s : State) (rs1 rs2 : RegIdx) : Except ErrorCode TowerElement :=
  match readFieldSources s rs1 rs2 with
  | .error c => .error c
  | .ok (a, b) => .ok ⟨a.level, mulElem s.params a.level a.bits (b.bitsAt a.level)⟩

/-- MUL rd, rs1, rs2 (R157). -/
def execMul (rd rs1 rs2 : RegIdx) (s : State) : Outcome :=
  finishCommand (.mul rd rs1 rs2) (encode (.mul rd rs1 rs2)) s (mulResult s rs1 rs2)

end Sys2Proof.Machine
end

