-- ==== Sys2Proof/Machine/Dispatch.lean ====
section
/-! DEFINITION. One arm per command (R93). -/

namespace Sys2Proof.Machine

def exec (i : Instr) (s : State) : Host.Outcome State Fault Refusal :=
  match i with
  | .add rd rs1 rs2 => Sys2Proof.Machine.execAdd rd rs1 rs2 s
  | .mul rd rs1 rs2 => Sys2Proof.Machine.execMul rd rs1 rs2 s
  | .inv rd rs1 => Sys2Proof.Machine.execInv rd rs1 s
  | .div rd rs1 rs2 => Sys2Proof.Machine.execDiv rd rs1 rs2 s
  | .hi rd rs1 => Sys2Proof.Machine.execHi rd rs1 s
  | .lo rd rs1 => Sys2Proof.Machine.execLo rd rs1 s
  | .join rd rs1 rs2 => Sys2Proof.Machine.execJoin rd rs1 rs2 s
  | .zero rd lvl => Sys2Proof.Machine.execZero rd lvl s
  | .one rd lvl => Sys2Proof.Machine.execOne rd lvl s

end Sys2Proof.Machine
end

