-- ==== Sys2Proof/Machine/Window.lean ====
section
/-! DEFINITION. The host register window (20_memory.md): the register map, what a read of each register returns, and
what a write to each register other than CMD does. -/

namespace Sys2Proof.Machine

/-- The registers of the window (R61). -/
inductive WindowReg where
  | id
  | config
  | cmd
  | status
  | errCmd
  | tag (i : RegIdx)
  | data (i : RegIdx) (word : Fin 8)
  | const (k : Fin 9) (word : Fin 8)
  | reserved
deriving DecidableEq, Repr

/-- A register of an element register's 64-byte block, at a byte offset within the block (R61). -/
def elementBlockReg (i : RegIdx) (r : Nat) : WindowReg :=
  if r = 0 then .tag i
  else if r < 0x20 then .reserved
  else .data i (Fin.ofNat 8 ((r - 0x20) / 4))

/-- The register at an offset that is a multiple of 4 (R61). -/
def registerAt (off : Offset) : WindowReg :=
  let o := off.toNat
  if o = 0x000 then .id
  else if o = 0x004 then .config
  else if o = 0x008 then .cmd
  else if o = 0x00C then .status
  else if o = 0x010 then .errCmd
  else if o < 0x100 then .reserved
  else if o < 0x300 then elementBlockReg (Fin.ofNat 8 ((o - 0x100) / 0x40)) ((o - 0x100) % 0x40)
  else if o < 0x400 then .reserved
  else if o < 0x520 then .const (Fin.ofNat 9 ((o - 0x400) / 0x20)) (Fin.ofNat 8 ((o - 0x400) % 0x20 / 4))
  else .reserved

/-- The offset of E[i].TAG (R61). -/
def tagOffset (i : RegIdx) : Offset := .ofNat 12 (0x100 + 0x40 * i.val)

/-- The offset of E[i].DATA word w (R61). -/
def dataOffset (i : RegIdx) (w : Fin 8) : Offset := .ofNat 12 (0x120 + 0x40 * i.val + 4 * w.val)

/-- The offset of CONST[k] word w (R61). -/
def constOffset (k : Fin 9) (w : Fin 8) : Offset := .ofNat 12 (0x400 + 0x20 * k.val + 4 * w.val)

/-- ID (R43): MAGIC 0x5754, VERSION 0x0001. -/
def idWord : Word := 0x57540001

/-- CONFIG (R44): MAX_LEVEL in 3:0, NREG_LOG2 = 3 in 7:4. -/
def configWord (p : Params) : Word := BitVec.ofNat 32 p.maxLevel.val ||| (3#32 <<< 4)

/-- E[i].TAG as read (R48, R63): LEVEL in 3:0, VALID in 8. -/
def tagWord (r : ElementReg) : Word := r.level.setWidth 32 ||| bitAt r.valid 8

/-- The bit positions of DATA that exist: those below W (R49). -/
def dataMask (p : Params) : Data := (BitVec.allOnes (dataWidth p)).setWidth 256

/-- The bit positions of DATA that word w holds (R49, R65). -/
def laneMask (w : Fin 8) : Data := (BitVec.allOnes 32).setWidth 256 <<< (32 * w.val)

/-- E[i].DATA word w as read (R64): positions at or above W read 0. -/
def dataWord (p : Params) (r : ElementReg) (w : Fin 8) : Word :=
  (r.data &&& dataMask p).extractLsb' (32 * w.val) 32

/-- E[i].DATA after a write of v to word w (R64): positions at or above W ignore it. -/
def writeDataWord (p : Params) (r : ElementReg) (w : Fin 8) (v : Word) : ElementReg :=
  let lane := laneMask w &&& dataMask p
  { r with data := (r.data &&& ~~~lane) ||| ((v.setWidth 256 <<< (32 * w.val)) &&& lane) }

/-- E[i].TAG after a write of v (R63): every LEVEL is stored as written, reserved bits are ignored. -/
def writeTag (r : ElementReg) (v : Word) : ElementReg :=
  { r with level := v.extractLsb' 0 4, valid := v.getLsbD 8 }

/-- CONST[k] extended with zeros to 256 bits (R50): 0 for k = 0 and for k above MAX_LEVEL. -/
def constValue (p : Params) : Nat → Data
  | 0 => 0
  | k + 1 => if p.maxLevel.val < k + 1 then 0 else (extConst p k).setWidth 256

/-- What a read of a register of the window returns (R43 to R50, R62). -/
def readRegister (s : State) : WindowReg → Word
  | .id => idWord
  | .config => configWord s.params
  | .cmd => 0
  | .status => statusWord s
  | .errCmd => s.errCmd
  | .tag i => tagWord (s.reg i)
  | .data i w => dataWord s.params (s.reg i) w
  | .const k w => (constValue s.params k.val).extractLsb' (32 * w.val) 32
  | .reserved => 0

/-- What a read at an offset of the window returns (R61). -/
def hostRead (s : State) (off : Offset) : Word := readRegister s (registerAt off)

/-- What a write to a register of the window does (R62, R63, R64, R217), but for CMD: a write to CMD
issues a command, which Machine/Serve.lean gives. -/
def writeRegister (s : State) (v : Word) : WindowReg → State
  | .id => s
  | .config => s
  | .cmd => s
  | .status => if v.getLsbD 1 then s.clearError else s
  | .errCmd => s
  | .tag i => s.setReg i (writeTag (s.reg i) v)
  | .data i w => s.setReg i (writeDataWord s.params (s.reg i) w v)
  | .const _ _ => s
  | .reserved => s

/-- An access the TAU defines: 32 bits wide at an offset that is a multiple of 4 (R66). -/
def Access.supported (a : Access) : Bool := a.size == 4 && a.offset.toNat % 4 == 0

/-- A 32-bit read of the window at an offset. -/
def readAt (off : Offset) : HostEvent := .access ⟨4, off, .read⟩

/-- A 32-bit write of a word to the window at an offset. -/
def writeAt (off : Offset) (v : Word) : HostEvent := .access ⟨4, off, .write v⟩

/-- The host write that issues a command word (R45): CMD stands at offset 0x008 (R61). -/
def cmdWrite (w : Word) : HostEvent := writeAt 0x008 w

/-- The window offset of a host address (R12, R60, R69); an address outside the window is not the TAU's. -/
def windowOffset (addr : Nat) : Option Offset :=
  if Config.tauBase ≤ addr ∧ addr < Config.tauBase + 4096 then some (.ofNat 12 (addr - Config.tauBase)) else none

/-- The host makes an access at a host address (R12, R71): it joins the end of the accesses to be served. -/
def State.receiveAt (s : State) (addr size : Nat) (kind : AccessKind) : Option State :=
  match windowOffset addr with
  | none => none
  | some off => some { s with host := s.host ++ [.access ⟨size, off, kind⟩] }

end Sys2Proof.Machine
end

