-- ==== Sys2Proof/Machine/Serve.lean ====
section
/-! DEFINITION. Serving the host: issuing a command, the reads that complete while a command executes, the other
accesses, and the reset input (R62 to R67, R71, R102, R215, R240, R246). -/

namespace Sys2Proof.Machine

/-- An access that completes while a command executes: a supported read of STATUS, ID or CONFIG (R246). -/
def HostEvent.completesWhileBusy : HostEvent → Bool
  | .access ⟨size, off, .read⟩ =>
    (Access.supported ⟨size, off, .read⟩) &&
      (registerAt off == .status || registerAt off == .id || registerAt off == .config)
  | .access ⟨_, _, .write _⟩ => false
  | .resetLine _ => false

/-- The offset of a host event's access; of a reset edge, 0. -/
def HostEvent.offset : HostEvent → Offset
  | .access a => a.offset
  | .resetLine _ => 0

/-- The reads served while a command executes (R246): of the accesses pending in q, at most n of the
foremost ones, as long as each is one that completes while BUSY = 1. Any other access is held, and with it
all that follow (R71). -/
def serveBusy (n : Nat) (q : List HostEvent) (s : State) : State :=
  match q with
  | [] => { s with host := [] }
  | ev :: q' =>
    match n with
    | 0 => { s with host := ev :: q' }
    | n' + 1 =>
      if ev.completesWhileBusy then serveBusy n' q' (s.reply (hostRead s ev.offset))
      else { s with host := ev :: q' }
termination_by structural q

/-- The state in which an issued command executes (R102, R246): BUSY = 1, and the overlapping reads have
been served. How many overlap is a FREE VALUE (R11; log 4). -/
def enterBusy (s : State) : State :=
  serveBusy (Config.overlap s.freeCount) s.host { s with busy := true, freeCount := s.freeCount + 1 }

/-- The execution of a command word in a state with BUSY = 1 (R98, R102): an illegal word raises
ILLEGAL_COMMAND (R95). -/
def executeWord (w : Word) (s : State) : Outcome :=
  match decode w with
  | .error _ => .next (s.raise .illegalCommand w)
  | .ok i => exec i s

/-- A host write of a word to CMD (R102, R215). -/
def issueCommand (w : Word) (s : State) : Outcome :=
  if s.err then .next { s with drop := true }
  else mapNext (fun t => t.setBusy false) (executeWord w (enterBusy s))

/-- A supported host access, outside reset (R61, R67). -/
def serveAccess (a : Access) (s : State) : Outcome :=
  match a.kind with
  | .read => .next (s.reply (hostRead s a.offset))
  | .write v =>
    if registerAt a.offset = .cmd then issueCommand v s
    else .next (writeRegister s v (registerAt a.offset))

/-- A supported host access while reset is asserted (R240, U7): a write has no effect, a read returns a
FREE VALUE, and the state is the reset state. -/
def serveInReset (a : Access) (s : State) : State :=
  match a.kind with
  | .read => ({ s.applyReset with freeCount := s.freeCount + 1 }).reply (Config.freeReadData s.freeCount)
  | .write _ => s.applyReset

/-- The reset input takes a level (R240). Asserted, or released after it was asserted, every piece of state
takes its reset value; a release without an assertion is no event. -/
def driveReset (asserted : Bool) (s : State) : State :=
  if asserted || s.resetIn then { s.applyReset with resetIn := asserted } else s

/-- One host event, already taken from the pending list. -/
def serveEvent (ev : HostEvent) (s : State) : Outcome :=
  match ev with
  | .resetLine b => .next (driveReset b s)
  | .access a =>
    if a.supported = false then .refused .unsupportedAccess
    else if s.resetIn then .next (serveInReset a s)
    else serveAccess a s

/-- With nothing pending the TAU is idle (R241); while reset is asserted it keeps its reset values (R240). -/
def idle (s : State) : State := if s.resetIn then s.applyReset else s

/-- Serve the oldest pending host event (R20, R71). -/
def serveHost (s : State) : Outcome :=
  match s.host with
  | [] => .next (idle s)
  | ev :: q => serveEvent ev { s with host := q }

/-- The host is about to write a word to CMD, outside reset and with no error recorded, so that the TAU
executes it next (R102). -/
def State.withCommand (s : State) (w : Word) : State :=
  { s.clearError with resetIn := false, host := cmdWrite w :: s.host }

end Sys2Proof.Machine
end

