-- ==== Sys2Proof/Machine/Step.lean ====
section
/-! DEFINITION. One step of the TAU: it serves the oldest pending host event, and a CMD write runs its whole command. -/

namespace Sys2Proof.Machine

/-- One step (R20, R246). -/
def step (s : State) : Outcome := serveHost s

/-- The state in which the very next step is the host's write of a table word to CMD (log 1). -/
def State.withFetchWord (s : State) (nbits w : Nat) : State := s.withCommand (BitVec.ofNat 32 (w % 2 ^ nbits))

end Sys2Proof.Machine
end

