-- ==== Sys2Proof/Machine/Assembler.lean ====
section
/-! DEFINITION. The assembler (R107 to R109), the pseudo-instructions (R110) and the host-action notation (R111): each
line stands for the host accesses it makes. Nothing in the TAU depends on this file. -/

namespace Sys2Proof.Machine

/-- A line of a program: a command, a pseudo-instruction, or a host action. -/
inductive AsmLine where
  | command (i : Instr)
  | sqr (rd rs : RegIdx)
  | clr (rd rs : RegIdx)
  | split (rh rl rs : RegIdx)
  | set (i : RegIdx) (level : LevelImm) (value : Data)
  | clrErr
  | tag (i : RegIdx) (value : Word)
deriving DecidableEq, Repr

/-- The commands of a pseudo-instruction or command (R110); a host action has none. SPLIT refuses rh = rs,
where LO would read the new hi half. -/
def AsmLine.commands : AsmLine → Option (List Instr)
  | .command i => some [i]
  | .sqr rd rs => some [.mul rd rs rs]
  | .clr rd rs => some [.add rd rs rs]
  | .split rh rl rs => if rh = rs then none else some [.hi rh rs, .lo rl rs]
  | .set _ _ _ => none
  | .clrErr => none
  | .tag _ _ => none

/-- The host writes that store an element (R111): DATA words 0 to 7, then TAG with VALID = 1. -/
def setElement (i : RegIdx) (level : LevelImm) (value : Data) : List HostEvent :=
  ([0, 1, 2, 3, 4, 5, 6, 7] : List (Fin 8)).map
      (fun w => writeAt (dataOffset i w) (value.extractLsb' (32 * w.val) 32))
    ++ [writeAt (tagOffset i) (tagWord ⟨true, BitVec.ofNat 4 level.val, 0⟩)]

/-- The host accesses that a line makes (R102, R110, R111). -/
def AsmLine.accesses : AsmLine → Option (List HostEvent)
  | .set i level value => some (setElement i level value)
  | .clrErr => some [writeAt 0x00C 0x2]
  | .tag i value => some [writeAt (tagOffset i) value]
  | line => line.commands.map (fun cs => cs.map (fun i => cmdWrite (encode i)))

/-- Spaces and tabs separate words. -/
def isSpace (c : Char) : Bool := c == ' ' || c == '\t'

/-- A word without the spaces around it. -/
def trimSpaces (cs : List Char) : List Char := ((cs.dropWhile isSpace).reverse.dropWhile isSpace).reverse

/-- The pieces between commas (R107). -/
def splitCommas : List Char → List (List Char)
  | [] => [[]]
  | c :: cs =>
    match splitCommas cs with
    | [] => [[]]
    | piece :: rest => if c = ',' then [] :: piece :: rest else (c :: piece) :: rest

/-- A register name e0 to e7 (R108). -/
def parseReg : List Char → Option RegIdx
  | ['e', d] => if '0' ≤ d ∧ d ≤ '7' then some (Fin.ofNat 8 (d.toNat - '0'.toNat)) else none
  | _ => none

/-- The value of a digit in a base up to 16. -/
def digitValue (base : Nat) (c : Char) : Option Nat :=
  let v :=
    if '0' ≤ c ∧ c ≤ '9' then some (c.toNat - '0'.toNat)
    else if 'a' ≤ c ∧ c ≤ 'f' then some (c.toNat - 'a'.toNat + 10)
    else if 'A' ≤ c ∧ c ≤ 'F' then some (c.toNat - 'A'.toNat + 10)
    else none
  match v with
  | some n => if n < base then some n else none
  | none => none

/-- The number that digits write, continuing from acc. -/
def parseDigits (base : Nat) (acc : Nat) : List Char → Option Nat
  | [] => some acc
  | c :: cs =>
    match digitValue base c with
    | some n => parseDigits base (acc * base + n) cs
    | none => none

/-- A nonempty number in a base. -/
def parseNumber (base : Nat) (cs : List Char) : Option Nat := if cs = [] then none else parseDigits base 0 cs

/-- A level immediate #k, k decimal and 0 to 15; any other value is refused (R109). -/
def parseLevel : List Char → Option LevelImm
  | '#' :: cs =>
    match parseNumber 10 cs with
    | some n => if n ≤ 15 then some (Fin.ofNat 16 n) else none
    | none => none
  | _ => none

/-- A hexadecimal value 0x… of at most n bits (R111). -/
def parseHex (n : Nat) : List Char → Option (BitVec n)
  | '0' :: 'x' :: cs =>
    match parseNumber 16 cs with
    | some v => if v < 2 ^ n then some (BitVec.ofNat n v) else none
    | none => none
  | _ => none

/-- Three register operands, destination first (R107). -/
def parse3 (f : RegIdx → RegIdx → RegIdx → AsmLine) : List (List Char) → Option AsmLine
  | [a, b, c] =>
    match parseReg a, parseReg b, parseReg c with
    | some a, some b, some c => some (f a b c)
    | _, _, _ => none
  | _ => none

/-- Two register operands, destination first (R107). -/
def parse2 (f : RegIdx → RegIdx → AsmLine) : List (List Char) → Option AsmLine
  | [a, b] =>
    match parseReg a, parseReg b with
    | some a, some b => some (f a b)
    | _, _ => none
  | _ => none

/-- A register and a level immediate (R107). -/
def parseRegLevel (f : RegIdx → LevelImm → AsmLine) : List (List Char) → Option AsmLine
  | [a, k] =>
    match parseReg a, parseLevel k with
    | some a, some k => some (f a k)
    | _, _ => none
  | _ => none

/-- The operands of `.set` (R111). -/
def parseSet : List (List Char) → Option AsmLine
  | [a, k, v] =>
    match parseReg a, parseLevel k, parseHex 256 v with
    | some a, some k, some v => some (.set a k v)
    | _, _, _ => none
  | _ => none

/-- The operands of `.tag` (R111). -/
def parseTag : List (List Char) → Option AsmLine
  | [a, v] =>
    match parseReg a, parseHex 32 v with
    | some a, some v => some (.tag a v)
    | _, _ => none
  | _ => none

/-- A line from its mnemonic in lower case (R107: case does not matter) and its operands. -/
def parseOperands (mnemonic : List Char) (ops : List (List Char)) : Option AsmLine :=
  match mnemonic with
  | ['a', 'd', 'd'] => parse3 (fun d s t => .command (.add d s t)) ops
  | ['m', 'u', 'l'] => parse3 (fun d s t => .command (.mul d s t)) ops
  | ['i', 'n', 'v'] => parse2 (fun d s => .command (.inv d s)) ops
  | ['d', 'i', 'v'] => parse3 (fun d s t => .command (.div d s t)) ops
  | ['h', 'i'] => parse2 (fun d s => .command (.hi d s)) ops
  | ['l', 'o'] => parse2 (fun d s => .command (.lo d s)) ops
  | ['j', 'o', 'i', 'n'] => parse3 (fun d s t => .command (.join d s t)) ops
  | ['z', 'e', 'r', 'o'] => parseRegLevel (fun d k => .command (.zero d k)) ops
  | ['o', 'n', 'e'] => parseRegLevel (fun d k => .command (.one d k)) ops
  | ['s', 'q', 'r'] => parse2 .sqr ops
  | ['c', 'l', 'r'] => parse2 .clr ops
  | ['s', 'p', 'l', 'i', 't'] => parse3 .split ops
  | ['.', 's', 'e', 't'] => parseSet ops
  | ['.', 'c', 'l', 'r', '_', 'e', 'r', 'r'] => if ops = [] then some .clrErr else none
  | ['.', 't', 'a', 'g'] => parseTag ops
  | _ => none

/-- The host accesses of one line of text (R107); a line that is empty, or only a comment, makes none. -/
def assembleLine (text : List Char) : Option (List HostEvent) :=
  let code := trimSpaces (text.takeWhile (fun c => c != ';'))
  if code = [] then some []
  else
    let mnemonic := (code.takeWhile (fun c => !isSpace c)).map Char.toLower
    let rest := trimSpaces (code.dropWhile (fun c => !isSpace c))
    let ops := if rest = [] then [] else (splitCommas rest).map trimSpaces
    match parseOperands mnemonic ops with
    | some line => line.accesses
    | none => none

end Sys2Proof.Machine
end

