-- ==== Sys2Proof/Machine/Cost.lean ====
section
/-! DEFINITION. The base-field AND operations that the reference structure performs (R155, R177, R248). No meaning
depends on them. -/

namespace Sys2Proof.Machine

/-- Base-field ANDs of one mul_k: five products of the level below (R155). -/
def mulAnds : Nat → Nat
  | 0 => 1
  | k + 1 => 5 * mulAnds k

/-- Base-field ANDs of one inv_k: five products and one inversion of the level below (R177). -/
def invAnds : Nat → Nat
  | 0 => 0
  | k + 1 => 5 * mulAnds k + invAnds k

/-- Base-field ANDs of one div_k: inv_k then mul_k (R248). -/
def divAnds (k : Nat) : Nat := invAnds k + mulAnds k

end Sys2Proof.Machine
end

