-- ==== Sys2Proof/Safety.lean ====
section
/-! DEFINITION. The terms that the statements use: ready sources, the invariant of the machine, and the constraint on
CONSTS. -/

namespace Sys2Proof.Machine

/-- E[i] can be read by a command (R103): it holds an element of a supported level. -/
abbrev State.Ready (s : State) (i : RegIdx) : Prop :=
  (s.reg i).valid = true ∧ (s.reg i).level.toNat ≤ s.params.maxLevel.val

/-- E[i] holds an element, of a level above MAX_LEVEL (R41). -/
abbrev State.TooDeep (s : State) (i : RegIdx) : Prop :=
  (s.reg i).valid = true ∧ s.params.maxLevel.val < (s.reg i).level.toNat

/-- The level of E[i] as a number. -/
abbrev State.levelOf (s : State) (i : RegIdx) : Nat := (s.reg i).level.toNat

/-- The element of T_k in the low 2^k bits of E[i].DATA (R41). -/
abbrev State.elemAt (s : State) (i : RegIdx) (k : Nat) : BitVec (2 ^ k) := (s.reg i).data.setWidth (2 ^ k)

/-- The state with E[rd] holding the element v of T_k, all else unchanged (R105). -/
abbrev State.holding (s : State) (rd : RegIdx) (k : Nat) (v : BitVec (2 ^ k)) : State :=
  { s with e := s.e.set rd.val ⟨true, BitVec.ofNat 4 k, v.setWidth 256⟩ }

/-- The state with an error record of a code and a command word, all else unchanged (R213, R214). -/
abbrev State.recording (s : State) (code : BitVec 4) (command : Word) : State :=
  { s with err := true, errCode := code, errCmd := command }

/-- The errors of a command's only source, in the order of R216: empty, then too deep. -/
abbrev OneSourceErrors (s : State) (i : Instr) (rs1 : RegIdx) : Prop :=
  ((s.reg rs1).valid = false → exec i s = .next (s.recording 4 (encode i))) ∧
  (s.TooDeep rs1 → exec i s = .next (s.recording 1 (encode i)))

/-- The errors of a command's two sources, in the order of R216: all of RS1's before RS2's. -/
abbrev TwoSourceErrors (s : State) (i : Instr) (rs1 rs2 : RegIdx) : Prop :=
  OneSourceErrors s i rs1 ∧
  (s.Ready rs1 → (s.reg rs2).valid = false → exec i s = .next (s.recording 4 (encode i))) ∧
  (s.Ready rs1 → s.TooDeep rs2 → exec i s = .next (s.recording 1 (encode i)))

/-- A word with the fields of a command executes as that command, or, where a field that must be zero is not
(R94, R95), records ILLEGAL_COMMAND and changes nothing else. -/
abbrev ExecutesAs (s : State) (w : Word) (legal : Prop) [Decidable legal] (i : Instr) : Prop :=
  executeWord w s = if legal then exec i s else .next (s.recording 5 w)

/-- The configuration meets R37: every modulus up to MAX_LEVEL is irreducible, said by the norm. -/
abbrev ConstsIrreducible (p : Params) : Prop :=
  ∀ k, k < p.maxLevel.val → ∀ a : BitVec (2 ^ (k + 1)), a ≠ 0 → normElem p k a ≠ 0

/-- The element registers, STATUS and ERR_CMD have their reset values (R55). -/
abbrev State.AtResetValues (s : State) : Prop :=
  (∀ i : RegIdx, s.reg i = ⟨false, 0, 0⟩) ∧ s.busy = false ∧ s.err = false ∧ s.drop = false ∧
    s.errCode = 0 ∧ s.errCmd = 0

/-- The error record is one that the rules can leave (R46, R47, R210, R214): clear as a whole, or one of the
codes 1 to 5, with ILLEGAL_COMMAND exactly when the recorded word is illegal. -/
abbrev State.RecordOk (s : State) : Prop :=
  (s.err = false → s.drop = false ∧ s.errCode = 0 ∧ s.errCmd = 0) ∧
  (s.err = true → 1 ≤ s.errCode.toNat ∧ s.errCode.toNat ≤ 5 ∧
    (s.errCode = 5 ↔ ∀ i, decode s.errCmd ≠ .ok i))

/-- Two states that agree on everything the rules call the state (R39) and on the configuration, and differ at
most in what is pending, what was returned and the free-value counter. -/
abbrev SameRegisters (s t : State) : Prop :=
  s.params = t.params ∧ s.e = t.e ∧ s.busy = t.busy ∧ s.err = t.err ∧ s.drop = t.drop ∧
    s.errCode = t.errCode ∧ s.errCmd = t.errCmd

/-- The invariant of the machine: BUSY is 0 between steps (R102), the record is one the rules can leave, no DATA
bit at or above W is set (R49), and while reset is asserted every register has its reset value (R240). -/
structure State.Inv (s : State) : Prop where
  idle : s.busy = false
  record : s.RecordOk
  width : ∀ i : RegIdx, (s.reg i).data.toNat < 2 ^ dataWidth s.params
  inReset : s.resetIn = true → s.AtResetValues

end Sys2Proof.Machine
end

