-- ==== Sys2Proof/Certificates/Slice0/Obligations.lean ====
section
/-! DEFINITION. The statements for the provers, family by family. -/

open Sys2Proof Sys2Proof.Machine

/-! ### Encoding (30_encoding.md) -/

/-- R99: the word of a command is its fields shifted into place; decoding inverts encoding, and encoding inverts
decoding on legal words. -/
def Obligations.DecodeInvertsEncode : Prop :=
  (∀ i : Instr, encode i =
    (i.fields.lvl.setWidth 32 <<< 13) ||| (i.fields.rs2.setWidth 32 <<< 10) |||
      (i.fields.rs1.setWidth 32 <<< 7) ||| (i.fields.rd.setWidth 32 <<< 4) ||| i.fields.opc.setWidth 32) ∧
  (∀ i : Instr, decode (encode i) = .ok i) ∧
  (∀ (w : Word) (i : Instr), decode w = .ok i → encode i = w)

/-- R94: a word selects a mnemonic exactly when its mask and match say so, no two rows overlap, and a word of no
row is illegal. -/
def Obligations.DecodeSelectsByMaskAndMatch : Prop :=
  (∀ w : Word,
    ((∃ rd rs1 rs2, decode w = .ok (.add rd rs1 rs2)) ↔ w &&& 0xFFFFE00F = 0x00000001) ∧
    ((∃ rd rs1 rs2, decode w = .ok (.mul rd rs1 rs2)) ↔ w &&& 0xFFFFE00F = 0x00000002) ∧
    ((∃ rd rs1, decode w = .ok (.inv rd rs1)) ↔ w &&& 0xFFFFFC0F = 0x00000003) ∧
    ((∃ rd rs1 rs2, decode w = .ok (.div rd rs1 rs2)) ↔ w &&& 0xFFFFE00F = 0x00000004) ∧
    ((∃ rd rs1, decode w = .ok (.hi rd rs1)) ↔ w &&& 0xFFFFFC0F = 0x00000005) ∧
    ((∃ rd rs1, decode w = .ok (.lo rd rs1)) ↔ w &&& 0xFFFFFC0F = 0x00000006) ∧
    ((∃ rd rs1 rs2, decode w = .ok (.join rd rs1 rs2)) ↔ w &&& 0xFFFFE00F = 0x00000007) ∧
    ((∃ rd lvl, decode w = .ok (.zero rd lvl)) ↔ w &&& 0xFFFE1F8F = 0x00000008) ∧
    ((∃ rd lvl, decode w = .ok (.one rd lvl)) ↔ w &&& 0xFFFE1F8F = 0x00000009) ∧
    ((∃ r, decode w = .error r) ↔
      w &&& 0xFFFFE00F ≠ 0x1 ∧ w &&& 0xFFFFE00F ≠ 0x2 ∧ w &&& 0xFFFFFC0F ≠ 0x3 ∧
      w &&& 0xFFFFE00F ≠ 0x4 ∧ w &&& 0xFFFFFC0F ≠ 0x5 ∧ w &&& 0xFFFFFC0F ≠ 0x6 ∧
      w &&& 0xFFFFE00F ≠ 0x7 ∧ w &&& 0xFFFE1F8F ≠ 0x8 ∧ w &&& 0xFFFE1F8F ≠ 0x9)) ∧
  decodeTable.Pairwise (fun a b => ∀ w : Word, ¬ (w &&& a.mask = a.pattern ∧ w &&& b.mask = b.pattern))

/-- R95: which words are illegal, and that executing one records ILLEGAL_COMMAND and reads and writes no register. -/
def Obligations.IllegalWords : Prop :=
  ∀ w : Word,
    ((∃ r, decode w = .error r) ↔
      w.extractLsb' 0 4 = 0 ∨ 0xA ≤ (w.extractLsb' 0 4).toNat ∨ w.extractLsb' 17 15 ≠ 0 ∨
      ((wordFields w).usesRs1 = false ∧ w.extractLsb' 7 3 ≠ 0) ∨
      ((wordFields w).usesRs2 = false ∧ w.extractLsb' 10 3 ≠ 0) ∨
      ((wordFields w).usesLvl = false ∧ w.extractLsb' 13 4 ≠ 0)) ∧
    (∀ (s : State) (r : DecodeReject), decode w = .error r → executeWord w s = .next (s.recording 5 w)) ∧
    (∃ r, decode 0x00000000 = .error r) ∧ (∃ r, decode 0xFFFFFFFF = .error r)

/-- The worked encodings of R100, which the spec derives from R99, read both ways. -/
def Obligations.WorkedEncodings : Prop :=
  decode 0x000009C1 = .ok (.add 4 3 2) ∧ encode (.add 4 3 2) = 0x000009C1 ∧
  decode 0x00000422 = .ok (.mul 2 0 1) ∧ encode (.mul 2 0 1) = 0x00000422 ∧
  decode 0x000000C3 = .ok (.inv 4 1) ∧ encode (.inv 4 1) = 0x000000C3 ∧
  decode 0x00000534 = .ok (.div 3 2 1) ∧ encode (.div 3 2 1) = 0x00000534 ∧
  decode 0x00000015 = .ok (.hi 1 0) ∧ encode (.hi 1 0) = 0x00000015 ∧
  decode 0x00000026 = .ok (.lo 2 0) ∧ encode (.lo 2 0) = 0x00000026 ∧
  decode 0x00000427 = .ok (.join 2 0 1) ∧ encode (.join 2 0 1) = 0x00000427 ∧
  decode 0x00000018 = .ok (.zero 1 0) ∧ encode (.zero 1 0) = 0x00000018 ∧
  decode 0x00006009 = .ok (.one 0 3) ∧ encode (.one 0 3) = 0x00006009

/-! ### Tower arithmetic (40_bitvector.md to 45_divide.md, 10_state.md section 2) -/

/-- R190, R191 and R192: the base-field tables, and that level 0 of every operation is the base field. -/
def Obligations.BaseFieldTables : Prop :=
  (∀ a b : BitVec 1, bfAdd a b = a ^^^ b ∧ bfMul a b = a &&& b ∧ addElem 0 a b = bfAdd a b) ∧
  bfAdd 0 0 = 0 ∧ bfAdd 0 1 = 1 ∧ bfAdd 1 0 = 1 ∧ bfAdd 1 1 = 0 ∧
  bfMul 0 0 = 0 ∧ bfMul 0 1 = 0 ∧ bfMul 1 0 = 0 ∧ bfMul 1 1 = 1 ∧
  bfInv 1 = .ok 1 ∧ bfInv 0 = .error .divByZero ∧
  (∀ (p : Params) (a b : BitVec 1), mulElem p 0 a b = bfMul a b ∧ invElem p 0 a = bfInv a)

/-- R142: addition is commutative, associative, self-inverse, with zero_k as identity. -/
def Obligations.AdditionLaws : Prop :=
  ∀ (k : Nat) (a b c : BitVec (2 ^ k)),
    addElem k a b = addElem k b a ∧ addElem k (addElem k a b) c = addElem k a (addElem k b c) ∧
    addElem k a a = zeroElem k ∧ addElem k a (zeroElem k) = a

/-- The laws of R125, which the spec derives from R120 to R123: join and split invert each other at every level; XOR
with itself and with zero. -/
def Obligations.SplitAndJoinInvert : Prop :=
  (∀ (k : Nat) (v : BitVec (2 ^ (k + 1))), joinHalves k (hiHalf k v) (loHalf k v) = v) ∧
  (∀ (k : Nat) (h l : BitVec (2 ^ k)),
    hiHalf k (joinHalves k h l) = h ∧ loHalf k (joinHalves k h l) = l ∧
    splitElem ⟨k + 1, joinHalves k h l⟩ = .ok (⟨k, h⟩, ⟨k, l⟩)) ∧
  (∀ (k : Nat) (a : BitVec (2 ^ k)), addElem k a a = zeroElem k ∧ addElem k a (zeroElem k) = a)

/-- R124: one_k, given by its recursion, is the identity of mul_k; it has bit 0 set and every other bit clear, which
the spec derives "by induction on k". -/
def Obligations.OneIsBitZeroAndIdentity : Prop :=
  oneElem 0 = 1#1 ∧ (∀ k, oneElem (k + 1) = joinHalves k (zeroElem k) (oneElem k)) ∧
  (∀ k i, (oneElem k).getLsbD i = decide (i = 0)) ∧
  (∀ (p : Params) (k : Nat) (a : BitVec (2 ^ k)), mulElem p k a (oneElem k) = a ∧ mulElem p k (oneElem k) a = a)

/-- The laws of R154: T_k with mul_k and add_k is a commutative ring. That it is one under any CONSTS the spec derives
"because the rule computes in the quotient ring" of R151. -/
def Obligations.MultiplicationLaws : Prop :=
  ∀ (p : Params) (k : Nat) (a b c : BitVec (2 ^ k)),
    mulElem p k a b = mulElem p k b a ∧
    mulElem p k (mulElem p k a b) c = mulElem p k a (mulElem p k b c) ∧
    mulElem p k a (addElem k b c) = addElem k (mulElem p k a b) (mulElem p k a c) ∧
    mulElem p k a (oneElem k) = a ∧ mulElem p k a (zeroElem k) = zeroElem k

/-- Level 1 written out, with c_1 = 1, and the T_1 product table, as the spec derives them in R152 from R150. -/
def Obligations.LevelOneProducts : Prop :=
  ∀ p : Params, extConst p 0 = 1#1 →
    (∀ a b : BitVec 2,
      (mulElem p 1 a b).getLsbD 1 =
        (((a.getLsbD 1 && b.getLsbD 0) ^^ (a.getLsbD 0 && b.getLsbD 1)) ^^ (a.getLsbD 1 && b.getLsbD 1)) ∧
      (mulElem p 1 a b).getLsbD 0 = ((a.getLsbD 0 && b.getLsbD 0) ^^ (a.getLsbD 1 && b.getLsbD 1))) ∧
    (∀ a : BitVec 2, mulElem p 1 0#2 a = 0 ∧ mulElem p 1 a 0#2 = 0 ∧ mulElem p 1 1#2 a = a ∧ mulElem p 1 a 1#2 = a) ∧
    mulElem p 1 2#2 2#2 = 3#2 ∧ mulElem p 1 2#2 3#2 = 1#2 ∧ mulElem p 1 3#2 2#2 = 1#2 ∧ mulElem p 1 3#2 3#2 = 2#2

/-- R35 under any CONSTS: the square of the generator of T_(k+1) is c times it plus one. -/
def Obligations.GeneratorRelation : Prop :=
  ∀ (p : Params) (k : Nat),
    mulElem p (k + 1) (generator k) (generator k) = joinHalves k (extConst p k) (oneElem k)

/-- With the default CONSTS, the squares of the generators, at every level 1 to 8, as the spec derives them in R153.
The default c_3 to c_8 are from general knowledge (log 3). -/
def Obligations.DefaultGeneratorSquares : Prop :=
  ∀ m : Fin 9,
    (∀ k, k < 8 → mulElem (defaultParams m) (k + 1) (generator k) (generator k) =
      addElem (k + 1) (mulElem (defaultParams m) (k + 1) (joinHalves k (zeroElem k) (extConst (defaultParams m) k))
        (generator k)) (oneElem (k + 1))) ∧
    mulElem (defaultParams m) 1 (generator 0) (generator 0) = 0x3#2 ∧
    mulElem (defaultParams m) 2 (generator 1) (generator 1) = 0x9#4 ∧
    (∀ k, 2 ≤ k → k ≤ 8 → ∀ i,
      (mulElem (defaultParams m) k ((1#(2 ^ k)) <<< (2 ^ (k - 1))) ((1#(2 ^ k)) <<< (2 ^ (k - 1)))).getLsbD i
        = decide (i = 0 ∨ i = 2 ^ (k - 1) + 2 ^ (k - 2)))

/-- 43_invert.md section 1: an element times its Frobenius conjugate is its norm, an element of the field below. -/
def Obligations.ConjugateProductIsNorm : Prop :=
  ∀ (p : Params) (k : Nat) (a : BitVec (2 ^ (k + 1))),
    mulElem p (k + 1) a (joinHalves k (hiHalf k a) (conjLo p k a)) = joinHalves k (zeroElem k) (normElem p k a)

/-- The correctness of inv_k, which the spec derives in R173: under R37 every nonzero element has an inverse, and zero
has none. Zero has none under any CONSTS. -/
def Obligations.InversionCorrect : Prop :=
  (∀ p : Params, ConstsIrreducible p → ∀ k, k ≤ p.maxLevel.val → ∀ a : BitVec (2 ^ k), a ≠ 0 →
    ∃ r, invElem p k a = .ok r ∧ mulElem p k a r = oneElem k) ∧
  (∀ (p : Params) (k : Nat), invElem p k (zeroElem k) = .error .divByZero)

/-- 43_invert.md section 1: whenever inv_k answers, its answer is the inverse, whatever CONSTS is; and whenever it
fails, it fails with division by zero, handed up unchanged from the level below. -/
def Obligations.InversionSoundUnderAnyConstants : Prop :=
  (∀ (p : Params) (k : Nat) (a r : BitVec (2 ^ k)), invElem p k a = .ok r → mulElem p k a r = oneElem k) ∧
  (∀ (p : Params) (k : Nat) (a : BitVec (2 ^ k)) (c : ErrorCode), invElem p k a = .error c → c = .divByZero) ∧
  (∀ (p : Params) (k : Nat) (a : BitVec (2 ^ (k + 1))) (c : ErrorCode),
    invElem p (k + 1) a = .error c ↔ invElem p k (normElem p k a) = .error c)

/-- The closed forms that the spec derives in R176, with the default CONSTS (c_3 to c_8 from general knowledge, log 3). -/
def Obligations.ClosedFormInverses : Prop :=
  ∀ m : Fin 9,
    (∀ k, k ≤ 8 → invElem (defaultParams m) k (oneElem k) = .ok (oneElem k)) ∧
    (∀ k, k < 8 → invElem (defaultParams m) (k + 1) (generator k) =
      .ok (joinHalves k (oneElem k) (extConst (defaultParams m) k))) ∧
    (invElem (defaultParams m) 1 0x1#2 = .ok 0x1#2 ∧ invElem (defaultParams m) 1 0x2#2 = .ok 0x3#2 ∧
      invElem (defaultParams m) 1 0x3#2 = .ok 0x2#2) ∧
    invElem (defaultParams m) 2 0x4#4 = .ok 0x6#4

/-- The laws of division under R37, which the spec derives in R202 from R200 and R173. -/
def Obligations.DivisionLaws : Prop :=
  ∀ p : Params, ConstsIrreducible p → ∀ k, k ≤ p.maxLevel.val → ∀ a b : BitVec (2 ^ k), b ≠ 0 →
    (∃ q, divElem p k a b = .ok q ∧ mulElem p k q b = a) ∧
    divElem p k a (oneElem k) = .ok a ∧ divElem p k b b = .ok (oneElem k) ∧
    divElem p k (oneElem k) b = invElem p k b

/-- R200: division is the product by the inverse of the second operand; when it fails; a zero dividend; and the
example that holds with its operands exchanged. -/
def Obligations.DivisionIsProductByInverse : Prop :=
  (∀ (p : Params) (k : Nat) (a b : BitVec (2 ^ k)),
    (∀ r, invElem p k b = .ok r → divElem p k a b = .ok (mulElem p k a r)) ∧
    (divElem p k a b = .error .divByZero ↔ invElem p k b = .error .divByZero)) ∧
  (∀ p : Params, ConstsIrreducible p → ∀ k, k ≤ p.maxLevel.val → ∀ a b : BitVec (2 ^ k),
    (divElem p k a b = .error .divByZero ↔ b = zeroElem k) ∧
    (b ≠ zeroElem k → divElem p k (zeroElem k) b = .ok (zeroElem k))) ∧
  divElem referenceParams 2 0x8#4 0xF#4 = .ok 0xA#4 ∧ divElem referenceParams 2 0xF#4 0x8#4 = .ok 0x9#4

/-- 10_state.md section 2: the default CONSTS make every modulus irreducible, that is, every nonzero element of a level
1 to MAX_LEVEL has a nonzero norm, whatever MAX_LEVEL is. The spec takes c_3 to c_8, and this for levels 5 to 8,
from general knowledge (log 3). -/
def Obligations.DefaultConstantsAreIrreducible : Prop := ∀ m : Fin 9, ConstsIrreducible (defaultParams m)

/-- 95_test_vectors.md section 2.3: T_k stands in T_(k+1) as the elements with hi half zero; products and norms
agree with it. -/
def Obligations.LowerFieldEmbeds : Prop :=
  ∀ (p : Params) (k : Nat) (a b : BitVec (2 ^ k)),
    mulElem p (k + 1) (joinHalves k (zeroElem k) a) (joinHalves k (zeroElem k) b) =
      joinHalves k (zeroElem k) (mulElem p k a b) ∧
    normElem p k (joinHalves k (zeroElem k) a) = mulElem p k a a

/-- 70_reset_and_hazards.md section 4: the base-field ANDs of the reference structure. -/
def Obligations.ReferenceOperationCounts : Prop :=
  ∀ k, mulAnds k = 5 ^ k ∧ invAnds k = (5 ^ (k + 1) - 5) / 4 ∧ divAnds k = (5 ^ (k + 1) - 5) / 4 + 5 ^ k

/-! ### The commands (R141, R157, R174, R201, R126 to R130) -/

/-- R141: ADD. -/
def Obligations.AddCommand : Prop :=
  ∀ s : State,
    (∀ w : Word, fieldOpc w = 0x1 → ExecutesAs s w (fieldLvl w = 0 ∧ fieldRsv w = 0)
      (.add (fieldRd w).toFin (fieldRs1 w).toFin (fieldRs2 w).toFin)) ∧
    (∀ rd rs1 rs2 : RegIdx,
      (s.Ready rs1 → s.Ready rs2 → s.levelOf rs1 = s.levelOf rs2 →
        exec (.add rd rs1 rs2) s = .next (s.holding rd (s.levelOf rs1)
          (s.elemAt rs1 (s.levelOf rs1) ^^^ s.elemAt rs2 (s.levelOf rs1)))) ∧
      TwoSourceErrors s (.add rd rs1 rs2) rs1 rs2 ∧
      (s.Ready rs1 → s.Ready rs2 → s.levelOf rs1 ≠ s.levelOf rs2 →
        exec (.add rd rs1 rs2) s = .next (s.recording 2 (encode (.add rd rs1 rs2)))))

/-- R157: MUL. -/
def Obligations.MulCommand : Prop :=
  ∀ s : State,
    (∀ w : Word, fieldOpc w = 0x2 → ExecutesAs s w (fieldLvl w = 0 ∧ fieldRsv w = 0)
      (.mul (fieldRd w).toFin (fieldRs1 w).toFin (fieldRs2 w).toFin)) ∧
    (∀ rd rs1 rs2 : RegIdx,
      (s.Ready rs1 → s.Ready rs2 → s.levelOf rs1 = s.levelOf rs2 →
        exec (.mul rd rs1 rs2) s = .next (s.holding rd (s.levelOf rs1)
          (mulElem s.params (s.levelOf rs1) (s.elemAt rs1 (s.levelOf rs1)) (s.elemAt rs2 (s.levelOf rs1))))) ∧
      TwoSourceErrors s (.mul rd rs1 rs2) rs1 rs2 ∧
      (s.Ready rs1 → s.Ready rs2 → s.levelOf rs1 ≠ s.levelOf rs2 →
        exec (.mul rd rs1 rs2) s = .next (s.recording 2 (encode (.mul rd rs1 rs2)))))

/-- R174: INV. Under R37 it fails exactly on zero; without it, exactly where inv_k fails. -/
def Obligations.InvCommand : Prop :=
  ∀ s : State,
    (∀ w : Word, fieldOpc w = 0x3 → ExecutesAs s w (fieldRs2 w = 0 ∧ fieldLvl w = 0 ∧ fieldRsv w = 0)
      (.inv (fieldRd w).toFin (fieldRs1 w).toFin)) ∧
    (∀ rd rs1 : RegIdx,
      (∀ r, s.Ready rs1 → invElem s.params (s.levelOf rs1) (s.elemAt rs1 (s.levelOf rs1)) = .ok r →
        exec (.inv rd rs1) s = .next (s.holding rd (s.levelOf rs1) r)) ∧
      (ConstsIrreducible s.params → s.Ready rs1 → s.elemAt rs1 (s.levelOf rs1) ≠ 0 →
        ∃ r, mulElem s.params (s.levelOf rs1) (s.elemAt rs1 (s.levelOf rs1)) r = 1 ∧
          invElem s.params (s.levelOf rs1) r = .ok (s.elemAt rs1 (s.levelOf rs1)) ∧
          exec (.inv rd rs1) s = .next (s.holding rd (s.levelOf rs1) r)) ∧
      OneSourceErrors s (.inv rd rs1) rs1 ∧
      (∀ c, s.Ready rs1 → invElem s.params (s.levelOf rs1) (s.elemAt rs1 (s.levelOf rs1)) = .error c →
        exec (.inv rd rs1) s = .next (s.recording 3 (encode (.inv rd rs1)))) ∧
      (s.Ready rs1 → s.elemAt rs1 (s.levelOf rs1) = 0 →
        exec (.inv rd rs1) s = .next (s.recording 3 (encode (.inv rd rs1)))))

/-- R201: DIV. RS1 is the dividend and RS2 the divisor. -/
def Obligations.DivCommand : Prop :=
  ∀ s : State,
    (∀ w : Word, fieldOpc w = 0x4 → ExecutesAs s w (fieldLvl w = 0 ∧ fieldRsv w = 0)
      (.div (fieldRd w).toFin (fieldRs1 w).toFin (fieldRs2 w).toFin)) ∧
    (∀ rd rs1 rs2 : RegIdx,
      (∀ r, s.Ready rs1 → s.Ready rs2 → s.levelOf rs1 = s.levelOf rs2 →
        invElem s.params (s.levelOf rs1) (s.elemAt rs2 (s.levelOf rs1)) = .ok r →
        exec (.div rd rs1 rs2) s = .next (s.holding rd (s.levelOf rs1)
          (mulElem s.params (s.levelOf rs1) (s.elemAt rs1 (s.levelOf rs1)) r))) ∧
      (ConstsIrreducible s.params → s.Ready rs1 → s.Ready rs2 → s.levelOf rs1 = s.levelOf rs2 →
        s.elemAt rs2 (s.levelOf rs1) ≠ 0 →
        ∃ q, mulElem s.params (s.levelOf rs1) q (s.elemAt rs2 (s.levelOf rs1)) = s.elemAt rs1 (s.levelOf rs1) ∧
          exec (.div rd rs1 rs2) s = .next (s.holding rd (s.levelOf rs1) q)) ∧
      TwoSourceErrors s (.div rd rs1 rs2) rs1 rs2 ∧
      (s.Ready rs1 → s.Ready rs2 → s.levelOf rs1 ≠ s.levelOf rs2 →
        exec (.div rd rs1 rs2) s = .next (s.recording 2 (encode (.div rd rs1 rs2)))) ∧
      (∀ c, s.Ready rs1 → s.Ready rs2 → s.levelOf rs1 = s.levelOf rs2 →
        invElem s.params (s.levelOf rs1) (s.elemAt rs2 (s.levelOf rs1)) = .error c →
        exec (.div rd rs1 rs2) s = .next (s.recording 3 (encode (.div rd rs1 rs2)))) ∧
      (s.Ready rs1 → s.Ready rs2 → s.levelOf rs1 = s.levelOf rs2 → s.elemAt rs2 (s.levelOf rs1) = 0 →
        exec (.div rd rs1 rs2) s = .next (s.recording 3 (encode (.div rd rs1 rs2)))))

/-- R126: HI writes bits 2^(k+1)-1 to 2^k of an element of level k+1. -/
def Obligations.HiCommand : Prop :=
  ∀ s : State,
    (∀ w : Word, fieldOpc w = 0x5 → ExecutesAs s w (fieldRs2 w = 0 ∧ fieldLvl w = 0 ∧ fieldRsv w = 0)
      (.hi (fieldRd w).toFin (fieldRs1 w).toFin)) ∧
    (∀ rd rs1 : RegIdx,
      (∀ k, s.Ready rs1 → s.levelOf rs1 = k + 1 →
        exec (.hi rd rs1) s = .next (s.holding rd k ((s.reg rs1).data.extractLsb' (2 ^ k) (2 ^ k)))) ∧
      OneSourceErrors s (.hi rd rs1) rs1 ∧
      (s.Ready rs1 → s.levelOf rs1 = 0 →
        exec (.hi rd rs1) s = .next (s.recording 1 (encode (.hi rd rs1)))))

/-- R127: LO writes bits 2^k-1 to 0 of an element of level k+1. -/
def Obligations.LoCommand : Prop :=
  ∀ s : State,
    (∀ w : Word, fieldOpc w = 0x6 → ExecutesAs s w (fieldRs2 w = 0 ∧ fieldLvl w = 0 ∧ fieldRsv w = 0)
      (.lo (fieldRd w).toFin (fieldRs1 w).toFin)) ∧
    (∀ rd rs1 : RegIdx,
      (∀ k, s.Ready rs1 → s.levelOf rs1 = k + 1 →
        exec (.lo rd rs1) s = .next (s.holding rd k ((s.reg rs1).data.extractLsb' 0 (2 ^ k)))) ∧
      OneSourceErrors s (.lo rd rs1) rs1 ∧
      (s.Ready rs1 → s.levelOf rs1 = 0 →
        exec (.lo rd rs1) s = .next (s.recording 1 (encode (.lo rd rs1)))))

/-- R128: JOIN. RS1 is the hi half, RS2 the lo half. -/
def Obligations.JoinCommand : Prop :=
  ∀ s : State,
    (∀ w : Word, fieldOpc w = 0x7 → ExecutesAs s w (fieldLvl w = 0 ∧ fieldRsv w = 0)
      (.join (fieldRd w).toFin (fieldRs1 w).toFin (fieldRs2 w).toFin)) ∧
    (∀ rd rs1 rs2 : RegIdx,
      (s.Ready rs1 → s.Ready rs2 → s.levelOf rs1 = s.levelOf rs2 → s.levelOf rs1 + 1 ≤ s.params.maxLevel.val →
        ∃ v : BitVec (2 ^ (s.levelOf rs1 + 1)),
          (∀ i, i < 2 ^ s.levelOf rs1 →
            v.getLsbD i = (s.reg rs2).data.getLsbD i ∧
            v.getLsbD (2 ^ s.levelOf rs1 + i) = (s.reg rs1).data.getLsbD i) ∧
          exec (.join rd rs1 rs2) s = .next (s.holding rd (s.levelOf rs1 + 1) v)) ∧
      TwoSourceErrors s (.join rd rs1 rs2) rs1 rs2 ∧
      (s.Ready rs1 → s.Ready rs2 → s.levelOf rs1 ≠ s.levelOf rs2 →
        exec (.join rd rs1 rs2) s = .next (s.recording 1 (encode (.join rd rs1 rs2)))) ∧
      (s.Ready rs1 → s.Ready rs2 → s.levelOf rs1 = s.levelOf rs2 → s.params.maxLevel.val < s.levelOf rs1 + 1 →
        exec (.join rd rs1 rs2) s = .next (s.recording 1 (encode (.join rd rs1 rs2)))))

/-- R129: ZERO. -/
def Obligations.ZeroCommand : Prop :=
  ∀ s : State,
    (∀ w : Word, fieldOpc w = 0x8 → ExecutesAs s w (fieldRs1 w = 0 ∧ fieldRs2 w = 0 ∧ fieldRsv w = 0)
      (.zero (fieldRd w).toFin (fieldLvl w).toFin)) ∧
    (∀ (rd : RegIdx) (lvl : LevelImm),
      (lvl.val ≤ s.params.maxLevel.val → exec (.zero rd lvl) s = .next (s.holding rd lvl.val 0)) ∧
      (s.params.maxLevel.val < lvl.val →
        exec (.zero rd lvl) s = .next (s.recording 1 (encode (.zero rd lvl)))))

/-- R130: ONE. -/
def Obligations.OneCommand : Prop :=
  ∀ s : State,
    (∀ w : Word, fieldOpc w = 0x9 → ExecutesAs s w (fieldRs1 w = 0 ∧ fieldRs2 w = 0 ∧ fieldRsv w = 0)
      (.one (fieldRd w).toFin (fieldLvl w).toFin)) ∧
    (∀ (rd : RegIdx) (lvl : LevelImm),
      (lvl.val ≤ s.params.maxLevel.val → exec (.one rd lvl) s = .next (s.holding rd lvl.val 1)) ∧
      (s.params.maxLevel.val < lvl.val →
        exec (.one rd lvl) s = .next (s.recording 1 (encode (.one rd lvl)))))

/-- R105: every command writes its result, at a level of at most MAX_LEVEL, to its one destination, or records one of
the errors 1 to 4 with its own word and writes no register; nothing else changes. -/
def Obligations.CommandsWriteDestinationOrRecord : Prop :=
  ∀ (i : Instr) (s : State),
    (∃ (k : Nat) (v : BitVec (2 ^ k)), k ≤ s.params.maxLevel.val ∧ exec i s = .next (s.holding i.dest k v)) ∨
    (∃ c : BitVec 4, 1 ≤ c.toNat ∧ c.toNat ≤ 4 ∧ exec i s = .next (s.recording c (encode i)))

/-- 30_encoding.md section 4: a command depends on nothing but the configuration, the VALID and LEVEL of its
named sources, and their DATA bits below 2^LEVEL. Two states that agree on these end alike. -/
def Obligations.CommandsReadOnlyTheirElements : Prop :=
  ∀ (i : Instr) (s s' : State), s'.params = s.params →
    (∀ r ∈ i.sources, (s'.reg r).valid = (s.reg r).valid ∧ (s'.reg r).level = (s.reg r).level ∧
      ∀ n, n < 2 ^ s.levelOf r → (s'.reg r).data.getLsbD n = (s.reg r).data.getLsbD n) →
    (∃ (k : Nat) (v : BitVec (2 ^ k)), exec i s = .next (s.holding i.dest k v) ∧
      exec i s' = .next (s'.holding i.dest k v)) ∨
    (∃ c : BitVec 4, exec i s = .next (s.recording c (encode i)) ∧
      exec i s' = .next (s'.recording c (encode i)))

/-- 45_divide.md section 1, by two commands: a quotient times its divisor is the dividend. -/
def Obligations.DivideThenMultiplyRestores : Prop :=
  ∀ (s : State) (rd rs1 rs2 : RegIdx), ConstsIrreducible s.params → s.Ready rs1 → s.Ready rs2 →
    s.levelOf rs1 = s.levelOf rs2 → s.elemAt rs2 (s.levelOf rs1) ≠ 0 → rd ≠ rs2 →
    ∃ t, exec (.div rd rs1 rs2) s = .next t ∧
      exec (.mul rd rd rs2) t = .next (s.holding rd (s.levelOf rs1) (s.elemAt rs1 (s.levelOf rs1)))

/-- The pseudo-instructions of R110, their expansions and what the expansions do. R110 says only that rh must differ
from rs in SPLIT; that the assembler refuses rh = rs is the model's choice (log 14). -/
def Obligations.PseudoInstructions : Prop :=
  (∀ rd rs, AsmLine.commands (.sqr rd rs) = some [.mul rd rs rs] ∧
    AsmLine.commands (.clr rd rs) = some [.add rd rs rs]) ∧
  (∀ rh rl rs, AsmLine.commands (.split rh rl rs) = if rh = rs then none else some [.hi rh rs, .lo rl rs]) ∧
  (∀ (s : State) (rd rs : RegIdx), s.Ready rs →
    exec (.mul rd rs rs) s = .next (s.holding rd (s.levelOf rs)
      (mulElem s.params (s.levelOf rs) (s.elemAt rs (s.levelOf rs)) (s.elemAt rs (s.levelOf rs)))) ∧
    exec (.add rd rs rs) s = .next (s.holding rd (s.levelOf rs) 0)) ∧
  (∀ (s : State) (rh rl rs : RegIdx) (k : Nat), rh ≠ rs → s.Ready rs → s.levelOf rs = k + 1 →
    ∃ t, exec (.hi rh rs) s = .next t ∧
      t = s.holding rh k ((s.reg rs).data.extractLsb' (2 ^ k) (2 ^ k)) ∧
      exec (.lo rl rs) t = .next (t.holding rl k ((s.reg rs).data.extractLsb' 0 (2 ^ k))))

/-! ### Steps, the error record and BUSY (R102, R213 to R217, R246) -/

/-- 30_encoding.md section 4: where the host's next access writes a word to CMD, outside reset and with ERR = 0, one
step runs the decoded command with BUSY = 1, after the reads that overlap it, and ends with BUSY = 0. The state it
runs in has every register as before. -/
def Obligations.StepRunsDecodedCommand : Prop :=
  ∀ (s : State) (q : List HostEvent) (w : Word) (i : Instr),
    s.host = cmdWrite w :: q → s.resetIn = false → s.err = false → decode w = .ok i →
    step s = mapNext (fun t => t.setBusy false) (exec i (enterBusy { s with host := q })) ∧
    SameRegisters (enterBusy { s with host := q }) { s with busy := true }

/-- 60_exceptions.md section 2 and R95: an illegal word written to CMD with ERR = 0 is recorded with code 5, and no
element register changes. -/
def Obligations.StepRecordsIllegalWord : Prop :=
  ∀ (s : State) (q : List HostEvent) (w : Word) (r : DecodeReject),
    s.host = cmdWrite w :: q → s.resetIn = false → s.err = false → decode w = .error r →
    ∃ t, step s = .next t ∧ t.params = s.params ∧ t.e = s.e ∧ t.busy = false ∧ t.err = true ∧ t.drop = s.drop ∧
      t.errCode = 5 ∧ t.errCmd = w ∧ t.resetIn = false

/-- R215: while ERR = 1 a write to CMD only sets DROP. -/
def Obligations.CommandDroppedWhileError : Prop :=
  ∀ (s : State) (q : List HostEvent) (w : Word),
    s.host = cmdWrite w :: q → s.resetIn = false → s.err = true →
    step s = .next { s with host := q, drop := true }

/-- R217: a write to STATUS clears the record if its bit 1 is 1, and changes nothing if it is 0; after the clear the next
command executes, whatever was recorded or dropped before. -/
def Obligations.StatusWriteClearsRecord : Prop :=
  ∀ (s : State) (q : List HostEvent) (v : Word),
    s.host = writeAt 0x00C v :: q → s.resetIn = false →
    (v.getLsbD 1 = true →
      step s = .next { s with host := q, err := false, drop := false, errCode := 0, errCmd := 0 }) ∧
    (v.getLsbD 1 = false → step s = .next { s with host := q }) ∧
    (∀ (q' : List HostEvent) (w : Word) (i : Instr), v.getLsbD 1 = true → q = cmdWrite w :: q' → decode w = .ok i →
      ∃ t, step s = .next t ∧
        step t = mapNext (fun u => u.setBusy false) (exec i (enterBusy { t with host := q' })))

/-- 60_exceptions.md sections 2 and 3: ERR is cleared by nothing but a write of 1 to STATUS bit 1, and by reset; it is
set by nothing but a write to CMD. -/
def Obligations.ErrChangesOnlyByHostOrCommand : Prop :=
  ∀ s t : State, step s = .next t →
    (s.err = true → t.err = false → s.resetIn = true ∨ (∃ q, s.host = .resetLine true :: q) ∨
      ∃ q v, s.host = writeAt 0x00C v :: q ∧ v.getLsbD 1 = true) ∧
    (s.err = false → t.err = true → ∃ q w, s.host = cmdWrite w :: q)

/-- 10_state.md section 3: an element register changes by nothing but reset, a host write of its own TAG or DATA, and
a command with it as destination. -/
def Obligations.RegistersChangeOnlyByOwners : Prop :=
  ∀ (s t : State) (r : RegIdx), step s = .next t → t.reg r ≠ s.reg r →
    s.resetIn = true ∨ (∃ q, s.host = .resetLine true :: q) ∨
    (∃ q v, s.host = writeAt (tagOffset r) v :: q) ∨ (∃ q v j, s.host = writeAt (dataOffset r j) v :: q) ∨
    (∃ q w i, s.host = cmdWrite w :: q ∧ s.err = false ∧ decode w = .ok i ∧ i.dest = r)

/-- 70_reset_and_hazards.md section 3: the accesses served while a command executes are the foremost pending reads of
STATUS, ID or CONFIG, up to a free number of them; each returns the registers as they were before the command, with
BUSY = 1; nothing else changes. -/
def Obligations.ReadsDuringCommandSeeBusy : Prop :=
  ∀ s : State, ∃ taken : List HostEvent,
    s.host = taken ++ (enterBusy s).host ∧ taken.length ≤ Config.overlap s.freeCount ∧
    (∀ ev ∈ taken, ∃ off, ev = readAt off ∧ (off = 0x000 ∨ off = 0x004 ∨ off = 0x00C)) ∧
    enterBusy s = { s with
      busy := true, freeCount := s.freeCount + 1, host := (enterBusy s).host,
      replies := (taken.map (fun ev => hostRead { s with busy := true } ev.offset)).reverse ++ s.replies } ∧
    (taken.length = Config.overlap s.freeCount ∨ (enterBusy s).host = [] ∨
      ∃ ev q, (enterBusy s).host = ev :: q ∧ ∀ off, ev = readAt off → off ≠ 0x000 ∧ off ≠ 0x004 ∧ off ≠ 0x00C)

/-- 70_reset_and_hazards.md section 3: what a CMD write does to the registers does not depend on what the host does
next, whether or not it polls. -/
def Obligations.PollingIsInvisible : Prop :=
  ∀ (s : State) (w : Word) (q q' : List HostEvent), s.resetIn = false →
    ∃ t t', step { s with host := cmdWrite w :: q } = .next t ∧
      step { s with host := cmdWrite w :: q' } = .next t' ∧ SameRegisters t t'

/-! ### The host window (10_state.md section 4, 20_memory.md) -/

/-- R43, R44: ID and CONFIG as read, and writes to them; with them what CMD, STATUS and ERR_CMD read (R45 to R47). -/
def Obligations.ControlRegistersRead : Prop :=
  ∀ s : State,
    hostRead s 0x000 = 0x57540001 ∧
    hostRead s 0x004 = (0#24 ++ 3#4 ++ BitVec.ofNat 4 s.params.maxLevel.val : BitVec 32) ∧
    hostRead s 0x008 = 0 ∧
    hostRead s 0x00C = (0#24 ++ s.errCode ++ 0#1 ++ BitVec.ofBool s.drop ++ BitVec.ofBool s.err ++
      BitVec.ofBool s.busy : BitVec 32) ∧
    hostRead s 0x010 = s.errCmd ∧
    (∀ (q : List HostEvent) (v : Word) (off : Offset), off = 0x000 ∨ off = 0x004 ∨ off = 0x010 →
      s.host = writeAt off v :: q → s.resetIn = false → step s = .next { s with host := q })

/-- R63: host access to E[i].TAG. -/
def Obligations.TagAccess : Prop :=
  ∀ (s : State) (i : RegIdx),
    hostRead s (tagOffset i) = (BitVec.ofBool (s.reg i).valid ++ 0#4 ++ (s.reg i).level : BitVec 9).setWidth 32 ∧
    (∀ (q : List HostEvent) (v : Word), s.host = writeAt (tagOffset i) v :: q → s.resetIn = false →
      step s = .next { s with
        host := q, e := s.e.set i.val ⟨v.getLsbD 8, v.extractLsb' 0 4, (s.reg i).data⟩ })

/-- R64: host access to E[i].DATA word w, bit by bit. -/
def Obligations.DataAccess : Prop :=
  ∀ (s : State) (i : RegIdx) (w : Fin 8),
    (∀ j, j < 32 → (hostRead s (dataOffset i w)).getLsbD j =
      if 32 * w.val + j < 2 ^ s.params.maxLevel.val then (s.reg i).data.getLsbD (32 * w.val + j) else false) ∧
    (∀ (q : List HostEvent) (v : Word), s.host = writeAt (dataOffset i w) v :: q → s.resetIn = false →
      ∃ d : Data,
        step s = .next { s with
          host := q, e := s.e.set i.val ⟨(s.reg i).valid, (s.reg i).level, d⟩ } ∧
        ∀ n, d.getLsbD n =
          if 32 * w.val ≤ n ∧ n < 32 * w.val + 32 ∧ n < 2 ^ s.params.maxLevel.val
          then v.getLsbD (n - 32 * w.val) else (s.reg i).data.getLsbD n)

/-- R50: the constants window. -/
def Obligations.ConstWindow : Prop :=
  ∀ (s : State) (k : Fin 9) (w : Fin 8),
    (∀ j, k.val = j + 1 → k.val ≤ s.params.maxLevel.val →
      hostRead s (constOffset k w) = ((extConst s.params j).setWidth 256).extractLsb' (32 * w.val) 32) ∧
    (k.val = 0 ∨ s.params.maxLevel.val < k.val → hostRead s (constOffset k w) = 0) ∧
    (∀ (q : List HostEvent) (v : Word), s.host = writeAt (constOffset k w) v :: q → s.resetIn = false →
      step s = .next { s with host := q }) ∧
    (∀ t, step s = .next t → hostRead t (constOffset k w) = hostRead s (constOffset k w))

/-- R62: reserved offsets read 0 and ignore writes, read-only registers ignore writes, and reserved bits read 0
and ignore writes. -/
def Obligations.ReservedReadsZeroIgnoresWrites : Prop :=
  (∀ (s : State) (off : Offset), off.toNat % 4 = 0 →
    (0x14 ≤ off.toNat ∧ off.toNat < 0x100) ∨ (0x300 ≤ off.toNat ∧ off.toNat < 0x400) ∨ 0x520 ≤ off.toNat ∨
      (0x100 ≤ off.toNat ∧ off.toNat < 0x300 ∧ 4 ≤ (off.toNat - 0x100) % 0x40 ∧
        (off.toNat - 0x100) % 0x40 < 0x20) →
    hostRead s off = 0 ∧
    (∀ q : List HostEvent, s.host = readAt off :: q → s.resetIn = false →
      step s = .next { s with host := q, replies := 0 :: s.replies }) ∧
    (∀ (q : List HostEvent) (v : Word), s.host = writeAt off v :: q → s.resetIn = false →
      step s = .next { s with host := q })) ∧
  (∀ (s : State) (off : Offset), off.toNat % 4 = 0 →
    off.toNat < 0x008 ∨ off.toNat = 0x010 ∨ (0x400 ≤ off.toNat ∧ off.toNat < 0x520) →
    ∀ (q : List HostEvent) (v : Word), s.host = writeAt off v :: q → s.resetIn = false →
      step s = .next { s with host := q }) ∧
  (∀ (s : State) (i : RegIdx) (j : Nat),
    ((4 ≤ j ∧ j < 8) ∨ 9 ≤ j → (hostRead s (tagOffset i)).getLsbD j = false) ∧
    (j = 3 ∨ 8 ≤ j → (hostRead s 0x00C).getLsbD j = false) ∧
    (8 ≤ j → (hostRead s 0x004).getLsbD j = false)) ∧
  (∀ (s : State) (i : RegIdx) (q : List HostEvent) (v v' : Word), s.resetIn = false →
    (v.extractLsb' 0 4 = v'.extractLsb' 0 4 → v.getLsbD 8 = v'.getLsbD 8 →
      step { s with host := writeAt (tagOffset i) v :: q } = step { s with host := writeAt (tagOffset i) v' :: q }) ∧
    (v.getLsbD 1 = v'.getLsbD 1 →
      step { s with host := writeAt 0x00C v :: q } = step { s with host := writeAt 0x00C v' :: q }))

/-- 20_memory.md section 3: a read returns the register and changes nothing. -/
def Obligations.ReadHasNoSideEffect : Prop :=
  ∀ (s : State) (q : List HostEvent) (off : Offset),
    s.host = readAt off :: q → off.toNat % 4 = 0 → s.resetIn = false →
    step s = .next { s with host := q, replies := hostRead s off :: s.replies }

/-- R66: an access that is not 32 bits wide at a multiple of 4 is refused; a step refuses nothing else and never
faults. -/
def Obligations.OnlyUnsupportedAccessRefused : Prop :=
  (∀ (s : State) (a : Access) (q : List HostEvent), s.host = .access a :: q →
    a.size ≠ 4 ∨ a.offset.toNat % 4 ≠ 0 → step s = .refused .unsupportedAccess) ∧
  (∀ s : State, (∃ t, step s = .next t) ∨
    (∃ a q, s.host = .access a :: q ∧ (a.size ≠ 4 ∨ a.offset.toNat % 4 ≠ 0)))

/-- 20_memory.md section 1: the window is the 4096 bytes from the 4 KiB aligned TAU_BASE. -/
def Obligations.WindowStandsAtBase : Prop :=
  Config.tauBase % 4096 = 0 ∧
  (∀ n, n < 4096 → windowOffset (Config.tauBase + n) = some (BitVec.ofNat 12 n)) ∧
  (∀ addr, addr < Config.tauBase ∨ Config.tauBase + 4096 ≤ addr → windowOffset addr = none)

/-! ### Reset, configuration and the invariant (R38, R55, R240) -/

/-- The state after reset that R55 gives, for every configuration, and what the window then reads. The last clause,
that State.reset has the reference configuration (MAX_LEVEL = 7), is the model's choice (log 2). -/
def Obligations.ResetValues : Prop :=
  ∀ p : Params,
    (State.resetWith p).AtResetValues ∧ (State.resetWith p).params = p ∧
    hostRead (State.resetWith p) 0x000 = 0x57540001 ∧ hostRead (State.resetWith p) 0x008 = 0 ∧
    hostRead (State.resetWith p) 0x00C = 0 ∧ hostRead (State.resetWith p) 0x010 = 0 ∧
    (∀ (i : RegIdx) (w : Fin 8), hostRead (State.resetWith p) (tagOffset i) = 0 ∧
      hostRead (State.resetWith p) (dataOffset i w) = 0) ∧
    hostRead (State.resetWith p) 0x004 = (0#24 ++ 3#4 ++ BitVec.ofNat 4 p.maxLevel.val : BitVec 32) ∧
    (∀ (s : State) (k : Fin 9) (w : Fin 8), s.params = p →
      hostRead (State.resetWith p) (constOffset k w) = hostRead s (constOffset k w)) ∧
    State.reset = State.resetWith referenceParams

/-- R240: asserting reset, accesses and idling while it is asserted, and releasing it. Nothing is said of what such a
read returns. A command is one step (R246), so none is in flight when reset arrives. -/
def Obligations.ResetInput : Prop :=
  (∀ (s : State) (q : List HostEvent), s.host = .resetLine true :: q →
    ∃ t, step s = .next t ∧ t.AtResetValues ∧ t.params = s.params ∧ t.resetIn = true ∧ t.host = q ∧
      t.replies = s.replies) ∧
  (∀ (s : State) (q : List HostEvent), s.host = .resetLine false :: q → s.resetIn = true →
    ∃ t, step s = .next t ∧ t.AtResetValues ∧ t.params = s.params ∧ t.resetIn = false ∧ t.host = q ∧
      t.replies = s.replies) ∧
  (∀ (s : State) (q : List HostEvent) (off : Offset) (v : Word),
    s.host = writeAt off v :: q → off.toNat % 4 = 0 → s.resetIn = true →
    ∃ t, step s = .next t ∧ t.AtResetValues ∧ t.params = s.params ∧ t.resetIn = true ∧ t.host = q ∧
      t.replies = s.replies) ∧
  (∀ (s : State) (q : List HostEvent) (off : Offset), s.host = readAt off :: q → off.toNat % 4 = 0 → s.resetIn = true →
    ∃ t v, step s = .next t ∧ t.AtResetValues ∧ t.params = s.params ∧ t.resetIn = true ∧ t.host = q ∧
      t.replies = v :: s.replies) ∧
  (∀ s : State, s.host = [] → s.resetIn = true →
    ∃ t, step s = .next t ∧ t.AtResetValues ∧ t.params = s.params ∧ t.resetIn = true ∧ t.host = [] ∧
      t.replies = s.replies)

/-- R38: no step changes the configuration, and the window shows each c_k. -/
def Obligations.ConfigurationNeverChanges : Prop :=
  (∀ s t : State, step s = .next t → t.params = s.params) ∧
  (∀ (s : State) (j : Nat) (h : j + 1 < 9), j + 1 ≤ s.params.maxLevel.val →
    ∀ n, n < 2 ^ j → (extConst s.params j).getLsbD n =
      (hostRead s (constOffset ⟨j + 1, h⟩ (Fin.ofNat 8 (n / 32)))).getLsbD (n % 32))

/-- The invariant of the machine (BUSY 0 between steps, a legal error record, no DATA bit above W, reset values while
reset is asserted) is kept by every step, from every state that has it. -/
def Obligations.EveryStepKeepsInvariant : Prop := ∀ s t : State, s.Inv → step s = .next t → t.Inv

/-- The invariant holds at reset, for every configuration. -/
def Obligations.ResetHasInvariant : Prop := (∀ p : Params, (State.resetWith p).Inv) ∧ State.reset.Inv
end

