-- ==== Sys2Proof/Laws/Decode.lean ====
section
/-! SUPPORT. Decoding as one chain of mask and match tests (R98). -/

namespace Sys2Proof

/-- Everything that decode can do. -/
theorem decode_eq (w : Word) : decode w =
    if w &&& 0xFFFFE00F#32 = 1#32 then .ok (operandsOf .add w)
    else if w &&& 0xFFFFE00F#32 = 2#32 then .ok (operandsOf .mul w)
    else if w &&& 0xFFFFFC0F#32 = 3#32 then .ok (operandsOf .inv w)
    else if w &&& 0xFFFFE00F#32 = 4#32 then .ok (operandsOf .div w)
    else if w &&& 0xFFFFFC0F#32 = 5#32 then .ok (operandsOf .hi w)
    else if w &&& 0xFFFFFC0F#32 = 6#32 then .ok (operandsOf .lo w)
    else if w &&& 0xFFFFE00F#32 = 7#32 then .ok (operandsOf .join w)
    else if w &&& 0xFFFE1F8F#32 = 8#32 then .ok (operandsOf .zero w)
    else if w &&& 0xFFFE1F8F#32 = 9#32 then .ok (operandsOf .one w)
    else .error (rejectReason w) := by
  have scan : ∀ (r : DecodeRow) (l : List DecodeRow),
      (r :: l).find? (fun r => w &&& r.mask == r.pattern) =
        if w &&& r.mask = r.pattern then some r else l.find? (fun r => w &&& r.mask == r.pattern) := by
    intro r l
    rw [List.find?_cons]
    by_cases h : w &&& r.mask = r.pattern
    · simp [h]
    · simp [h, beq_eq_false_iff_ne.mpr h]
  simp only [decode, decodeTable, scan, List.find?_nil]
  split_ifs <;> rfl

end Sys2Proof
end

