-- ==== Sys2Proof/Laws/Field.lean ====
section
/-! SUPPORT. The defining equations of the tower arithmetic, and the bits of halves and of a join. -/

namespace Sys2Proof.Machine

theorem mulElem_level_zero (p : Params) (a b : BitVec (2 ^ 0)) : mulElem p 0 a b = a &&& b := rfl

theorem mulElem_level_succ (p : Params) (k : Nat) (a b : BitVec (2 ^ (k + 1))) :
    mulElem p (k + 1) a b =
      joinHalves k
        (mulElem p k (hiHalf k a) (loHalf k b) ^^^ mulElem p k (loHalf k a) (hiHalf k b) ^^^
          mulElem p k (extConst p k) (mulElem p k (hiHalf k a) (hiHalf k b)))
        (mulElem p k (loHalf k a) (loHalf k b) ^^^ mulElem p k (hiHalf k a) (hiHalf k b)) := rfl

theorem invElem_level_zero (p : Params) (a : BitVec (2 ^ 0)) : invElem p 0 a = bfInv a := rfl

theorem invElem_level_succ_ok {p : Params} {k : Nat} {a : BitVec (2 ^ (k + 1))} {n : BitVec (2 ^ k)}
    (h : invElem p k (normElem p k a) = .ok n) :
    invElem p (k + 1) a =
      .ok (joinHalves k (mulElem p k n (hiHalf k a)) (mulElem p k n (conjLo p k a))) := by
  simp [invElem, h]

theorem invElem_level_succ_error {p : Params} {k : Nat} {a : BitVec (2 ^ (k + 1))} {c : ErrorCode}
    (h : invElem p k (normElem p k a) = .error c) : invElem p (k + 1) a = .error c := by
  simp [invElem, h]

theorem normElem_eq (p : Params) (k : Nat) (a : BitVec (2 ^ (k + 1))) :
    normElem p k a =
      mulElem p k (loHalf k a) (loHalf k a ^^^ mulElem p k (extConst p k) (hiHalf k a)) ^^^
        mulElem p k (hiHalf k a) (hiHalf k a) := rfl

theorem splitElem_level_zero {a : TowerElement} (h : a.level = 0) : splitElem a = .error .shape := by
  obtain ⟨l, v⟩ := a
  subst h
  rfl

theorem splitElem_level_succ {a : TowerElement} {k : Nat} (h : a.level = k + 1) :
    splitElem a = .ok (⟨k, hiHalf k (a.bitsAt (k + 1))⟩, ⟨k, loHalf k (a.bitsAt (k + 1))⟩) := by
  obtain ⟨l, v⟩ := a
  subst h
  simp [splitElem, TowerElement.bitsAt]

theorem getLsbD_hiHalf (k i : Nat) (v : BitVec (2 ^ (k + 1))) :
    (hiHalf k v).getLsbD i = (decide (i < 2 ^ k) && v.getLsbD (2 ^ k + i)) := by
  simp [hiHalf, BitVec.getLsbD_extractLsb']

theorem getLsbD_loHalf (k i : Nat) (v : BitVec (2 ^ (k + 1))) :
    (loHalf k v).getLsbD i = (decide (i < 2 ^ k) && v.getLsbD i) := by
  simp [loHalf, BitVec.getLsbD_extractLsb']

theorem getLsbD_joinHalves (k i : Nat) (h l : BitVec (2 ^ k)) :
    (joinHalves k h l).getLsbD i = if i < 2 ^ k then l.getLsbD i else h.getLsbD (i - 2 ^ k) := by
  simp [joinHalves, BitVec.getLsbD_append]

end Sys2Proof.Machine
end

