-- ==== Sys2Proof/Laws/State.lean ====
section
/-! SUPPORT. One lemma per field per update of State, true by rfl. -/

namespace Sys2Proof.Machine.State

variable (s : State)

@[simp] theorem setReg_params (i : RegIdx) (r : ElementReg) : (s.setReg i r).params = s.params := rfl
@[simp] theorem setReg_e (i : RegIdx) (r : ElementReg) : (s.setReg i r).e = s.e.set i.val r := rfl
@[simp] theorem setReg_busy (i : RegIdx) (r : ElementReg) : (s.setReg i r).busy = s.busy := rfl
@[simp] theorem setReg_err (i : RegIdx) (r : ElementReg) : (s.setReg i r).err = s.err := rfl
@[simp] theorem setReg_drop (i : RegIdx) (r : ElementReg) : (s.setReg i r).drop = s.drop := rfl
@[simp] theorem setReg_errCode (i : RegIdx) (r : ElementReg) : (s.setReg i r).errCode = s.errCode := rfl
@[simp] theorem setReg_errCmd (i : RegIdx) (r : ElementReg) : (s.setReg i r).errCmd = s.errCmd := rfl
@[simp] theorem setReg_resetIn (i : RegIdx) (r : ElementReg) : (s.setReg i r).resetIn = s.resetIn := rfl
@[simp] theorem setReg_host (i : RegIdx) (r : ElementReg) : (s.setReg i r).host = s.host := rfl
@[simp] theorem setReg_replies (i : RegIdx) (r : ElementReg) : (s.setReg i r).replies = s.replies := rfl
@[simp] theorem setReg_freeCount (i : RegIdx) (r : ElementReg) : (s.setReg i r).freeCount = s.freeCount := rfl

@[simp] theorem raise_params (c : ErrorCode) (w : Word) : (s.raise c w).params = s.params := rfl
@[simp] theorem raise_e (c : ErrorCode) (w : Word) : (s.raise c w).e = s.e := rfl
@[simp] theorem raise_busy (c : ErrorCode) (w : Word) : (s.raise c w).busy = s.busy := rfl
@[simp] theorem raise_err (c : ErrorCode) (w : Word) : (s.raise c w).err = true := rfl
@[simp] theorem raise_drop (c : ErrorCode) (w : Word) : (s.raise c w).drop = s.drop := rfl
@[simp] theorem raise_errCode (c : ErrorCode) (w : Word) : (s.raise c w).errCode = errorCodeBits c := rfl
@[simp] theorem raise_errCmd (c : ErrorCode) (w : Word) : (s.raise c w).errCmd = w := rfl
@[simp] theorem raise_resetIn (c : ErrorCode) (w : Word) : (s.raise c w).resetIn = s.resetIn := rfl
@[simp] theorem raise_host (c : ErrorCode) (w : Word) : (s.raise c w).host = s.host := rfl
@[simp] theorem raise_replies (c : ErrorCode) (w : Word) : (s.raise c w).replies = s.replies := rfl
@[simp] theorem raise_freeCount (c : ErrorCode) (w : Word) : (s.raise c w).freeCount = s.freeCount := rfl

@[simp] theorem clearError_params : (s.clearError).params = s.params := rfl
@[simp] theorem clearError_e : (s.clearError).e = s.e := rfl
@[simp] theorem clearError_busy : (s.clearError).busy = s.busy := rfl
@[simp] theorem clearError_err : (s.clearError).err = false := rfl
@[simp] theorem clearError_drop : (s.clearError).drop = false := rfl
@[simp] theorem clearError_errCode : (s.clearError).errCode = 0 := rfl
@[simp] theorem clearError_errCmd : (s.clearError).errCmd = 0 := rfl
@[simp] theorem clearError_resetIn : (s.clearError).resetIn = s.resetIn := rfl
@[simp] theorem clearError_host : (s.clearError).host = s.host := rfl
@[simp] theorem clearError_replies : (s.clearError).replies = s.replies := rfl
@[simp] theorem clearError_freeCount : (s.clearError).freeCount = s.freeCount := rfl

@[simp] theorem setBusy_params (b : Bool) : (s.setBusy b).params = s.params := rfl
@[simp] theorem setBusy_e (b : Bool) : (s.setBusy b).e = s.e := rfl
@[simp] theorem setBusy_busy (b : Bool) : (s.setBusy b).busy = b := rfl
@[simp] theorem setBusy_err (b : Bool) : (s.setBusy b).err = s.err := rfl
@[simp] theorem setBusy_drop (b : Bool) : (s.setBusy b).drop = s.drop := rfl
@[simp] theorem setBusy_errCode (b : Bool) : (s.setBusy b).errCode = s.errCode := rfl
@[simp] theorem setBusy_errCmd (b : Bool) : (s.setBusy b).errCmd = s.errCmd := rfl
@[simp] theorem setBusy_resetIn (b : Bool) : (s.setBusy b).resetIn = s.resetIn := rfl
@[simp] theorem setBusy_host (b : Bool) : (s.setBusy b).host = s.host := rfl
@[simp] theorem setBusy_replies (b : Bool) : (s.setBusy b).replies = s.replies := rfl
@[simp] theorem setBusy_freeCount (b : Bool) : (s.setBusy b).freeCount = s.freeCount := rfl

@[simp] theorem reply_params (v : Word) : (s.reply v).params = s.params := rfl
@[simp] theorem reply_e (v : Word) : (s.reply v).e = s.e := rfl
@[simp] theorem reply_busy (v : Word) : (s.reply v).busy = s.busy := rfl
@[simp] theorem reply_err (v : Word) : (s.reply v).err = s.err := rfl
@[simp] theorem reply_drop (v : Word) : (s.reply v).drop = s.drop := rfl
@[simp] theorem reply_errCode (v : Word) : (s.reply v).errCode = s.errCode := rfl
@[simp] theorem reply_errCmd (v : Word) : (s.reply v).errCmd = s.errCmd := rfl
@[simp] theorem reply_resetIn (v : Word) : (s.reply v).resetIn = s.resetIn := rfl
@[simp] theorem reply_host (v : Word) : (s.reply v).host = s.host := rfl
@[simp] theorem reply_replies (v : Word) : (s.reply v).replies = v :: s.replies := rfl
@[simp] theorem reply_freeCount (v : Word) : (s.reply v).freeCount = s.freeCount := rfl

@[simp] theorem applyReset_params : (s.applyReset).params = s.params := rfl
@[simp] theorem applyReset_e : (s.applyReset).e = Vector.replicate 8 emptyReg := rfl
@[simp] theorem applyReset_busy : (s.applyReset).busy = false := rfl
@[simp] theorem applyReset_err : (s.applyReset).err = false := rfl
@[simp] theorem applyReset_drop : (s.applyReset).drop = false := rfl
@[simp] theorem applyReset_errCode : (s.applyReset).errCode = 0 := rfl
@[simp] theorem applyReset_errCmd : (s.applyReset).errCmd = 0 := rfl
@[simp] theorem applyReset_resetIn : (s.applyReset).resetIn = s.resetIn := rfl
@[simp] theorem applyReset_host : (s.applyReset).host = s.host := rfl
@[simp] theorem applyReset_replies : (s.applyReset).replies = s.replies := rfl
@[simp] theorem applyReset_freeCount : (s.applyReset).freeCount = s.freeCount := rfl

@[simp] theorem withCommand_params (w : Word) : (s.withCommand w).params = s.params := rfl
@[simp] theorem withCommand_e (w : Word) : (s.withCommand w).e = s.e := rfl
@[simp] theorem withCommand_busy (w : Word) : (s.withCommand w).busy = s.busy := rfl
@[simp] theorem withCommand_err (w : Word) : (s.withCommand w).err = false := rfl
@[simp] theorem withCommand_drop (w : Word) : (s.withCommand w).drop = false := rfl
@[simp] theorem withCommand_errCode (w : Word) : (s.withCommand w).errCode = 0 := rfl
@[simp] theorem withCommand_errCmd (w : Word) : (s.withCommand w).errCmd = 0 := rfl
@[simp] theorem withCommand_resetIn (w : Word) : (s.withCommand w).resetIn = false := rfl
@[simp] theorem withCommand_host (w : Word) : (s.withCommand w).host = cmdWrite w :: s.host := rfl
@[simp] theorem withCommand_replies (w : Word) : (s.withCommand w).replies = s.replies := rfl
@[simp] theorem withCommand_freeCount (w : Word) : (s.withCommand w).freeCount = s.freeCount := rfl

@[simp] theorem writeResult_params (rd : RegIdx) (a : TowerElement) : (s.writeResult rd a).params = s.params := rfl
@[simp] theorem writeResult_e (rd : RegIdx) (a : TowerElement) : (s.writeResult rd a).e = s.e.set rd.val (regOf a) := rfl
@[simp] theorem writeResult_busy (rd : RegIdx) (a : TowerElement) : (s.writeResult rd a).busy = s.busy := rfl
@[simp] theorem writeResult_err (rd : RegIdx) (a : TowerElement) : (s.writeResult rd a).err = s.err := rfl
@[simp] theorem writeResult_drop (rd : RegIdx) (a : TowerElement) : (s.writeResult rd a).drop = s.drop := rfl
@[simp] theorem writeResult_errCode (rd : RegIdx) (a : TowerElement) : (s.writeResult rd a).errCode = s.errCode := rfl
@[simp] theorem writeResult_errCmd (rd : RegIdx) (a : TowerElement) : (s.writeResult rd a).errCmd = s.errCmd := rfl
@[simp] theorem writeResult_resetIn (rd : RegIdx) (a : TowerElement) : (s.writeResult rd a).resetIn = s.resetIn := rfl
@[simp] theorem writeResult_host (rd : RegIdx) (a : TowerElement) : (s.writeResult rd a).host = s.host := rfl
@[simp] theorem writeResult_replies (rd : RegIdx) (a : TowerElement) : (s.writeResult rd a).replies = s.replies := rfl
@[simp] theorem writeResult_freeCount (rd : RegIdx) (a : TowerElement) : (s.writeResult rd a).freeCount = s.freeCount := rfl

@[simp] theorem resetWith_params (p : Params) : (State.resetWith p).params = p := rfl
@[simp] theorem resetWith_e (p : Params) : (State.resetWith p).e = Vector.replicate 8 emptyReg := rfl
@[simp] theorem resetWith_busy (p : Params) : (State.resetWith p).busy = false := rfl
@[simp] theorem resetWith_err (p : Params) : (State.resetWith p).err = false := rfl
@[simp] theorem resetWith_drop (p : Params) : (State.resetWith p).drop = false := rfl
@[simp] theorem resetWith_errCode (p : Params) : (State.resetWith p).errCode = 0 := rfl
@[simp] theorem resetWith_errCmd (p : Params) : (State.resetWith p).errCmd = 0 := rfl
@[simp] theorem resetWith_resetIn (p : Params) : (State.resetWith p).resetIn = false := rfl
@[simp] theorem resetWith_host (p : Params) : (State.resetWith p).host = [] := rfl
@[simp] theorem resetWith_replies (p : Params) : (State.resetWith p).replies = [] := rfl
@[simp] theorem resetWith_freeCount (p : Params) : (State.resetWith p).freeCount = 0 := rfl

end Sys2Proof.Machine.State
end

