-- ==== Sys2Proof/Laws/Ops.lean ====
section
/-! SUPPORT. What the shared operations do: registers, the end of a command, and the operand forms. -/

namespace Sys2Proof.Machine

@[simp] theorem reg_setReg_self (s : State) (i : RegIdx) (r : ElementReg) : (s.setReg i r).reg i = r := by
  simp [State.reg, State.setReg]

theorem reg_setReg_ne (s : State) (i j : RegIdx) (r : ElementReg) (h : j ≠ i) :
    (s.setReg i r).reg j = s.reg j := by
  have h' : i.val ≠ j.val := fun e => h (Fin.ext e.symm)
  simp [State.reg, State.setReg, Vector.getElem_set_ne, h']

theorem reg_setReg (s : State) (i j : RegIdx) (r : ElementReg) :
    (s.setReg i r).reg j = if j = i then r else s.reg j := by
  split
  · next h => subst h; simp
  · next h => exact reg_setReg_ne s i j r h

@[simp] theorem reg_resetWith (p : Params) (i : RegIdx) : (State.resetWith p).reg i = emptyReg := by
  simp [State.reg, State.resetWith]

@[simp] theorem reg_applyReset (s : State) (i : RegIdx) : s.applyReset.reg i = emptyReg := by
  simp [State.reg]

@[simp] theorem reg_raise (s : State) (c : ErrorCode) (w : Word) (i : RegIdx) : (s.raise c w).reg i = s.reg i := rfl

@[simp] theorem reg_clearError (s : State) (i : RegIdx) : s.clearError.reg i = s.reg i := rfl

@[simp] theorem reg_setBusy (s : State) (b : Bool) (i : RegIdx) : (s.setBusy b).reg i = s.reg i := rfl

@[simp] theorem reg_reply (s : State) (v : Word) (i : RegIdx) : (s.reply v).reg i = s.reg i := rfl

theorem writeResult_eq_setReg (s : State) (rd : RegIdx) (a : TowerElement) :
    s.writeResult rd a = s.setReg rd (regOf a) := rfl

@[simp] theorem finishCommand_ok (i : Instr) (w : Word) (s : State) (a : TowerElement) :
    finishCommand i w s (.ok a) = .next (s.writeResult i.dest a) := rfl

@[simp] theorem finishCommand_error (i : Instr) (w : Word) (s : State) (c : ErrorCode) :
    finishCommand i w s (.error c) = .next (s.raise c w) := rfl

/-- A command ends with one register written or with an error recorded, never both. -/
theorem finishCommand_cases {i : Instr} {w : Word} {s t : State} {r : Except ErrorCode TowerElement}
    (h : finishCommand i w s r = .next t) :
    (∃ a, r = .ok a ∧ t = s.writeResult i.dest a) ∨ (∃ c, r = .error c ∧ t = s.raise c w) := by
  cases r with
  | ok a => exact .inl ⟨a, rfl, by simpa using h.symm⟩
  | error c => exact .inr ⟨c, rfl, by simpa using h.symm⟩

@[simp] theorem mapNext_next (f : State → State) (s : State) : mapNext f (.next s) = .next (f s) := rfl

/-- An outcome changed by f is a next state only where the outcome was. -/
theorem mapNext_eq_next {f : State → State} {o : Outcome} {t : State} (h : mapNext f o = .next t) :
    ∃ s, o = .next s ∧ t = f s := by
  cases o with
  | next s => exact ⟨s, rfl, by simpa [mapNext] using h.symm⟩
  | fault r => cases r
  | refused r => simp [mapNext] at h

theorem readSource_empty {s : State} {i : RegIdx} (h : (s.reg i).valid = false) :
    readSource s i = .error .emptyOperand := by
  simp [readSource, h]

theorem readSource_tooDeep {s : State} {i : RegIdx} (h : (s.reg i).valid = true)
    (hl : s.params.maxLevel.val < (s.reg i).level.toNat) : readSource s i = .error .shape := by
  simp [readSource, h, hl]

theorem readSource_ready {s : State} {i : RegIdx} (h : (s.reg i).valid = true)
    (hl : (s.reg i).level.toNat ≤ s.params.maxLevel.val) :
    readSource s i = .ok ⟨(s.reg i).level.toNat, (s.reg i).data.setWidth (2 ^ (s.reg i).level.toNat)⟩ := by
  simp [readSource, h, Nat.not_lt.mpr hl]

/-- Everything that reading a source can do. -/
theorem readSource_cases (s : State) (i : RegIdx) :
    ((s.reg i).valid = false ∧ readSource s i = .error .emptyOperand) ∨
    ((s.reg i).valid = true ∧ s.params.maxLevel.val < (s.reg i).level.toNat ∧
      readSource s i = .error .shape) ∨
    ((s.reg i).valid = true ∧ (s.reg i).level.toNat ≤ s.params.maxLevel.val ∧
      readSource s i =
        .ok ⟨(s.reg i).level.toNat, (s.reg i).data.setWidth (2 ^ (s.reg i).level.toNat)⟩) := by
  cases hv : (s.reg i).valid with
  | false => exact .inl ⟨rfl, readSource_empty hv⟩
  | true =>
    by_cases hl : s.params.maxLevel.val < (s.reg i).level.toNat
    · exact .inr (.inl ⟨rfl, hl, readSource_tooDeep hv hl⟩)
    · exact .inr (.inr ⟨rfl, Nat.not_lt.mp hl, readSource_ready hv (Nat.not_lt.mp hl)⟩)

theorem readSources_ok {s : State} {i j : RegIdx} {a b : TowerElement} (h : readSources s i j = .ok (a, b)) :
    readSource s i = .ok a ∧ readSource s j = .ok b := by
  unfold readSources at h
  split at h
  · cases h
  · next x hx =>
    split at h
    · cases h
    · next y hy => cases h; exact ⟨hx, hy⟩

theorem readFieldSources_ok {s : State} {i j : RegIdx} {a b : TowerElement}
    (h : readFieldSources s i j = .ok (a, b)) :
    readSource s i = .ok a ∧ readSource s j = .ok b ∧ a.level = b.level := by
  unfold readFieldSources at h
  split at h
  · cases h
  · next x y hx =>
    split at h
    · next hl => cases h; exact ⟨(readSources_ok hx).1, (readSources_ok hx).2, hl⟩
    · cases h

theorem readLevel_cases (s : State) (lvl : LevelImm) :
    (lvl.val ≤ s.params.maxLevel.val ∧ readLevel s lvl = .ok lvl.val) ∨
    (s.params.maxLevel.val < lvl.val ∧ readLevel s lvl = .error .shape) := by
  by_cases h : s.params.maxLevel.val < lvl.val
  · exact .inr ⟨h, by simp [readLevel, h]⟩
  · exact .inl ⟨Nat.not_lt.mp h, by simp [readLevel, h]⟩

/-- The low bits of a register's DATA, read at a level equal to the element's own. -/
theorem bitsAt_setWidth {k j : Nat} (d : Data) (h : k = j) :
    (⟨j, d.setWidth (2 ^ j)⟩ : TowerElement).bitsAt k = d.setWidth (2 ^ k) := by
  subst h
  simp [TowerElement.bitsAt]

@[simp] theorem bitsAt_self (a : TowerElement) : a.bitsAt a.level = a.bits := by simp [TowerElement.bitsAt]

end Sys2Proof.Machine
end

