-- ==== Sys2Proof/Laws/PerInstr.lean ====
section
/-! SUPPORT. Facts about each command as syntax: the fields of its encoding. -/

namespace Sys2Proof.Laws.EncodingFields

/- One theorem after another: many kernel evaluations at once take more threads than the check's memory allows. -/
set_option Elab.async false

/-- The word of a command has the command's C-format fields (R91, R99), and they form a legal word (R94, R95). -/
def Statement (i : Instr) : Prop := wordFields (encode i) = i.fields ∧ i.wellFormed = true

theorem add (rd rs1 rs2 : RegIdx) : Statement (.add rd rs1 rs2) := by
  unfold Statement; revert rd rs1 rs2; decide +kernel

theorem mul (rd rs1 rs2 : RegIdx) : Statement (.mul rd rs1 rs2) := by
  unfold Statement; revert rd rs1 rs2; decide +kernel

theorem inv (rd rs1 : RegIdx) : Statement (.inv rd rs1) := by
  unfold Statement; revert rd rs1; decide +kernel

theorem div (rd rs1 rs2 : RegIdx) : Statement (.div rd rs1 rs2) := by
  unfold Statement; revert rd rs1 rs2; decide +kernel

theorem hi (rd rs1 : RegIdx) : Statement (.hi rd rs1) := by
  unfold Statement; revert rd rs1; decide +kernel

theorem lo (rd rs1 : RegIdx) : Statement (.lo rd rs1) := by
  unfold Statement; revert rd rs1; decide +kernel

theorem join (rd rs1 rs2 : RegIdx) : Statement (.join rd rs1 rs2) := by
  unfold Statement; revert rd rs1 rs2; decide +kernel

theorem zero (rd : RegIdx) (lvl : LevelImm) : Statement (.zero rd lvl) := by
  unfold Statement; revert rd lvl; decide +kernel

theorem one (rd : RegIdx) (lvl : LevelImm) : Statement (.one rd lvl) := by
  unfold Statement; revert rd lvl; decide +kernel

end Sys2Proof.Laws.EncodingFields
end

