-- ==== Sys2Proof/Laws/Window.lean ====
section
/-! SUPPORT. The register map at the offsets of its registers, and what serving the host can do. -/

namespace Sys2Proof.Machine

@[simp] theorem registerAt_tagOffset : ∀ i : RegIdx, registerAt (tagOffset i) = .tag i := by decide

@[simp] theorem registerAt_dataOffset : ∀ (i : RegIdx) (w : Fin 8), registerAt (dataOffset i w) = .data i w := by
  decide

@[simp] theorem registerAt_constOffset : ∀ (k : Fin 9) (w : Fin 8), registerAt (constOffset k w) = .const k w := by
  decide

@[simp] theorem registerAt_cmd : registerAt 8#12 = .cmd := by decide

@[simp] theorem registerAt_status : registerAt 12#12 = .status := by decide

/-- The reads served while a command executes change nothing but what is pending and what was returned. -/
theorem serveBusy_frame (n : Nat) (q : List HostEvent) (s : State) :
    ∃ q' r, serveBusy n q s = { s with host := q', replies := r } := by
  induction q generalizing n s with
  | nil => exact ⟨_, _, rfl⟩
  | cons ev q ih =>
    cases n with
    | zero => exact ⟨_, _, rfl⟩
    | succ n =>
      by_cases h : ev.completesWhileBusy
      · obtain ⟨q', r, e⟩ := ih n (s.reply (hostRead s ev.offset))
        exact ⟨q', r, by simpa [serveBusy, h, State.reply] using e⟩
      · exact ⟨_, _, by simp only [serveBusy, h]; rfl⟩

/-- Entering a command changes nothing but BUSY, the free-value counter, and the reads that overlap it. -/
theorem enterBusy_frame (s : State) :
    ∃ q' r, enterBusy s =
      { s with busy := true, freeCount := s.freeCount + 1, host := q', replies := r } := by
  obtain ⟨q', r, e⟩ := serveBusy_frame (Config.overlap s.freeCount) s.host
    { s with busy := true, freeCount := s.freeCount + 1 }
  exact ⟨q', r, e⟩

/-- Every step is one of these: idle, or the oldest pending host event served. -/
theorem step_cases (s : State) :
    (s.host = [] ∧ step s = .next (idle s)) ∨
    (∃ ev q, s.host = ev :: q ∧ step s = serveEvent ev { s with host := q }) := by
  cases h : s.host with
  | nil => exact .inl ⟨rfl, by simp [step, serveHost, h]⟩
  | cons ev q => exact .inr ⟨ev, q, rfl, by simp [step, serveHost, h]⟩

end Sys2Proof.Machine
end

