-- ==== Sys2Proof/Tests/Slice0.lean ====
section
/-! SUPPORT. Small tests. Expected values come from spec/: the worked encodings of R100 and the vectors V-* of
95_test_vectors.md; a word without a vector is written out from the fields of R91. After them, for every
obligation with hypotheses, a witness that meets the hypotheses of each of its clauses. -/

namespace Sys2Proof.Tests

open Sys2Proof.Machine

/- One theorem after another: many kernel evaluations at once take more threads than the check's memory allows. -/
set_option Elab.async false

/-! ### Helpers -/

/-- The outcome is a next state with the property. -/
def nextSatisfies (o : Outcome) (p : State → Bool) : Bool :=
  match o with
  | .next t => p t
  | .fault _ => false
  | .refused _ => false

/-- An element register that holds d at level k. -/
def el (k : BitVec 4) (d : Data) : ElementReg := ⟨true, k, d⟩

/-- The reset state of the reference configuration with the first registers given. -/
def withRegs (rs : List ElementReg) : State :=
  { State.reset with e := Vector.ofFn (fun i => rs[i.val]?.getD emptyReg) }

/-- The host's next access is given. -/
def before (s : State) (ev : HostEvent) : State := { s with host := [ev] }

/-- The outcome of one command word from the given registers. -/
def run (rs : List ElementReg) (w : Word) : Outcome := step (before (withRegs rs) (cmdWrite w))

/-- The word ends with E[rd] = r and STATUS 0. -/
def gives (rs : List ElementReg) (w : Word) (rd : RegIdx) (r : ElementReg) : Bool :=
  nextSatisfies (run rs w) (fun t => t.reg rd == r && statusWord t == 0)

/-- The word ends with STATUS as given, its own word in ERR_CMD, and every element register as before. -/
def records (rs : List ElementReg) (w status : Word) : Bool :=
  nextSatisfies (run rs w) (fun t => statusWord t == status && t.errCmd == w && t.e == (withRegs rs).e)

/-! ### Well-formedness: each check refuses a term -/

theorem test_wf_accepts : (CFields.mk 1 7 7 7 0 0).wellFormed = true := by decide
theorem test_wf_opcode_zero : (CFields.mk 0 0 0 0 0 0).wellFormed = false := by decide
theorem test_wf_opcode_ten : (CFields.mk 0xA 0 0 0 0 0).wellFormed = false := by decide
theorem test_wf_rsv : (CFields.mk 1 0 0 0 0 1).wellFormed = false := by decide
theorem test_wf_rs1_of_zero : (CFields.mk 8 0 1 0 0 0).wellFormed = false := by decide
theorem test_wf_rs2_of_inv : (CFields.mk 3 0 0 1 0 0).wellFormed = false := by decide
theorem test_wf_lvl_of_add : (CFields.mk 1 0 0 0 1 0).wellFormed = false := by decide

/-! ### Decoding and encoding: words laid out as RSV LVL RS2 RS1 RD OPC (R91) -/

theorem test_decode_add : decode 0b000000000000000_0000_010_011_100_0001 = .ok (.add 4 3 2) := by decide
theorem test_decode_mul : decode 0b000000000000000_0000_001_000_010_0010 = .ok (.mul 2 0 1) := by decide
theorem test_decode_inv : decode 0b000000000000000_0000_000_001_100_0011 = .ok (.inv 4 1) := by decide
theorem test_decode_div : decode 0b000000000000000_0000_001_010_011_0100 = .ok (.div 3 2 1) := by decide
theorem test_decode_hi : decode 0b000000000000000_0000_000_000_001_0101 = .ok (.hi 1 0) := by decide
theorem test_decode_lo : decode 0b000000000000000_0000_000_000_010_0110 = .ok (.lo 2 0) := by decide
theorem test_decode_join : decode 0b000000000000000_0000_001_000_010_0111 = .ok (.join 2 0 1) := by decide
theorem test_decode_zero : decode 0b000000000000000_0111_000_000_101_1000 = .ok (.zero 5 7) := by decide
theorem test_decode_one : decode 0b000000000000000_1000_000_000_000_1001 = .ok (.one 0 8) := by decide
theorem test_decode_highest_fields : decode 0b000000000000000_1111_000_000_111_1001 = .ok (.one 7 15) := by decide
/-- V-ERR-15, V-ERR-16 and V-ERR-13: each is refused by its reason. -/
theorem test_decode_refuses : decode 0x403 = .error .unusedFieldSet ∧ decode 0x20001 = .error .reservedBitSet ∧
    decode 0 = .error .unassignedOpcode := by decide
theorem test_encode : encode (.add 4 3 2) = 0x9C1 ∧ encode (.one 0 3) = 0x6009 ∧ encode (.div 3 2 1) = 0x534 := by
  decide
theorem test_decodeTableWord : decodeTableWord 32 0x9C1 = some (.add 4 3 2) ∧ decodeTableWord 32 0x403 = none := by
  decide
theorem test_decodeBytes : decodeBytes [0x09, 0x60, 0, 0, 0xFF] = .ok (.one 0 3, [0xFF]) ∧
    decodeBytes [0x09, 0x60, 0] = .error .truncated := by decide

/-! ### Arithmetic (95_test_vectors.md 2.5 to 2.7) -/

theorem test_mul_4 : mulElem referenceParams 4 0x8307 0xA5AE = 0x1122 := by decide +kernel
theorem test_inv_4 : invElem referenceParams 4 0x8307 = .ok 0x321B := by decide +kernel
theorem test_mul_5 : mulElem referenceParams 5 0x1A466885 0xE255ACCB = 0xF907006B := by decide +kernel
theorem test_norm_3 : normElem referenceParams 2 0xB7 = 0x7 ∧ normElem referenceParams 2 0x11 = 0x4 := by decide +kernel
theorem test_split_level_zero : splitElem ⟨0, 1⟩ = .error .shape := by decide
theorem test_counts : mulAnds 2 = 25 ∧ invAnds 2 = 30 ∧ divAnds 2 = 55 := by decide

/-! ### Commands (95_test_vectors.md 2.8 and 2.9) -/

/-- V-ADD-3: DATA bits at or above 2^LEVEL are not read. -/
theorem test_add_ignores_high_bits : gives [el 2 0xF3] 0x11 1 (el 2 0) = true := by decide +kernel
/-- V-ERR-18: the shape of RS2 comes before the mismatch. -/
theorem test_add_priority : records [el 1 1, el 9 1] 0x421 0x12 = true := by decide +kernel
/-- V-MUL-1. -/
theorem test_mul : gives [el 2 4, el 2 9] 0x422 2 (el 2 0xA) = true := by decide +kernel
/-- V-ERR-2. -/
theorem test_mul_mismatch : records [el 1 1, el 2 1] 0x422 0x22 = true := by decide +kernel
/-- V-INV-2: in place. -/
theorem test_inv_in_place : gives [el 2 7] 0x3 0 (el 2 0xF) = true := by decide +kernel
/-- V-ERR-11: the depth guard. -/
theorem test_inv_too_deep : records [el 9 1] 0x13 0x12 = true := by decide +kernel
/-- V-DIV-3: the dividend is RS1. -/
theorem test_div_order : gives [el 2 0xF, el 2 8] 0x424 2 (el 2 9) = true := by decide +kernel
/-- V-ERR-10: the mismatch comes before the division by zero. -/
theorem test_div_priority : records [el 1 1, el 2 0] 0x424 0x22 = true := by decide +kernel
/-- V-HI-1. -/
theorem test_hi : gives [el 3 0xB7] 0x15 1 (el 2 0xB) = true := by decide +kernel
/-- V-ERR-5. -/
theorem test_hi_level_zero : records [el 0 1] 0x15 0x12 = true := by decide +kernel
/-- V-LO-1. -/
theorem test_lo : gives [el 3 0xB7] 0x26 2 (el 2 7) = true := by decide +kernel
/-- V-LO-2: in place. -/
theorem test_lo_in_place : gives [el 1 2] 0x6 0 (el 0 0) = true := by decide +kernel
/-- V-JOIN-2: RS1 is the hi half. -/
theorem test_join : gives [emptyReg, el 2 0xB, el 2 7] 0x8B7 3 (el 3 0xB7) = true := by decide +kernel
/-- V-ERR-4: a result above MAX_LEVEL. -/
theorem test_join_too_high : records [el 7 1, el 7 1] 0x427 0x12 = true := by decide +kernel
/-- V-ZERO-2. -/
theorem test_zero : gives [emptyReg, emptyReg, emptyReg, emptyReg, emptyReg, el 2 0xF] 0xE058 5 (el 7 0) = true := by
  decide +kernel
/-- V-ONE-1, through the host's interface. -/
theorem test_one : nextSatisfies (step (State.reset.withFetchWord 32 0x6009))
    (fun t => t.reg 0 == el 3 1 && statusWord t == 0) = true := by decide +kernel
/-- V-ERR-12. -/
theorem test_one_too_high : records [] 0x10009 0x12 = true := by decide +kernel
/-- V-ERR-13. -/
theorem test_illegal_word : records [] 0 0x52 = true := by decide +kernel
/-- V-ERR-17: an empty RS1 comes first. -/
theorem test_empty_first : records [emptyReg, el 9 1] 0x421 0x42 = true := by decide +kernel

/-! ### The host's accesses (95_test_vectors.md 2.9 and 2.10) -/

/-- The state after V-ERR-7: STATUS 0x32. -/
def inError : State := { withRegs [el 3 0] with err := true, errCode := 3, errCmd := 0x13 }

/-- V-ERR-19: dropped. -/
theorem test_drop : nextSatisfies (step (before inError (cmdWrite 0x6029)))
    (fun t => statusWord t == 0x36 && t.errCmd == 0x13 && t.e == inError.e) = true := by decide +kernel
/-- V-ERR-20. -/
theorem test_clear : nextSatisfies (step (before { inError with drop := true } (writeAt 0x00C 0x2)))
    (fun t => statusWord t == 0 && t.errCmd == 0) = true := by decide +kernel
/-- V-ERR-21. -/
theorem test_no_clear : nextSatisfies (step (before { inError with drop := true } (writeAt 0x00C 0x4)))
    (fun t => statusWord t == 0x36 && t.errCmd == 0x13) = true := by decide +kernel
/-- V-REG-1, V-REG-2 and V-REG-7 to V-REG-10. -/
theorem test_window_reads : [0x000, 0x004, 0x440, 0x460, 0x4E4, 0x400].map (hostRead State.reset)
    = [0x57540001, 0x37, 0x2, 0x4, 0x1, 0x0] := by decide +kernel
/-- V-REG-6: every LEVEL is stored as written. -/
theorem test_tag_write : nextSatisfies (step (before State.reset (writeAt 0x100 0xFFFFFFFF)))
    (fun t => hostRead t 0x100 == 0x10F && t.reg 0 == ⟨true, 15, 0⟩) = true := by decide +kernel
/-- V-REG-13. -/
theorem test_offsets : tagOffset 3 = 0x1C0 ∧ dataOffset 3 0 = 0x1E0 ∧ dataOffset 7 7 = 0x2FC := by decide
/-- R49: with MAX_LEVEL = 2 only four bits of word 0 exist. -/
theorem test_data_write_narrow :
    nextSatisfies (step (before (State.resetWith (defaultParams 2)) (writeAt 0x120 0xFFFFFFFF)))
      (fun t => hostRead t 0x120 == 0xF) = true := by decide +kernel
/-- R66: a byte access and a misaligned access are refused. -/
theorem test_refused : (∃ r, step (before State.reset (.access ⟨1, 0, .read⟩)) = .refused r) ∧
    (∃ r, step (before State.reset (readAt 0x002)) = .refused r) := ⟨⟨_, rfl⟩, ⟨_, rfl⟩⟩
/-- R109, R110: text to host writes. -/
theorem test_assemble :
    assembleLine ['J', 'o', 'i', 'n', ' ', 'e', '2', ',', 'e', '0', ',', ' ', 'e', '1', ';', 'x']
      = some [cmdWrite 0x427] ∧
    assembleLine ['o', 'n', 'e', ' ', 'e', '0', ',', ' ', '#', '1', '6'] = none := by decide +kernel
/-- R111: `.set e0, #2, 0x4` writes eight DATA words and the TAG 0x102 of V-REG-5. -/
theorem test_set :
    (assembleLine ['.', 's', 'e', 't', ' ', 'e', '0', ',', ' ', '#', '2', ',', ' ', '0', 'x', '4']).map
      (fun l => (l.head?, l.getLast?, l.length)) = some (some (writeAt 0x120 4), some (writeAt 0x100 0x102), 9) := by
  decide +kernel

/-! ### Witnesses: states and operands that meet the hypotheses of the obligations, clause by clause -/

/-- One register of each kind, MAX_LEVEL = 7: e5 empty, e3 and e4 too deep, e0 a one, e7 a zero. -/
def mixed : State := withRegs [el 0 1, el 1 2, el 7 1, el 8 1, el 15 1, emptyReg, el 6 1, el 0 0]

/-- MAX_LEVEL = 2, where the constraint on CONSTS is checked by evaluation: e1 is a zero. -/
def small : State :=
  { State.resetWith (defaultParams 2) with e := #v[el 2 9, el 2 0, el 2 4, el 0 1, emptyReg, emptyReg, emptyReg, emptyReg] }

theorem witness_irreducible : ConstsIrreducible (defaultParams 2) := by decide +kernel

/-- The hypotheses that the statements about two-source commands share: equal levels at both ends, RS1 empty or
too deep, RS2 empty or too deep at both ends, unequal levels. -/
theorem witness_two_sources :
    (mixed.Ready 0 ∧ mixed.Ready 7 ∧ mixed.levelOf 0 = mixed.levelOf 7) ∧
    (mixed.Ready 2 ∧ mixed.levelOf 2 = 7) ∧
    ((mixed.reg 5).valid = false ∧ mixed.TooDeep 3 ∧ mixed.TooDeep 4) ∧
    (mixed.Ready 0 ∧ mixed.Ready 1 ∧ mixed.levelOf 0 ≠ mixed.levelOf 1) := by decide +kernel

theorem witness_DecodeInvertsEncode : decode 0x9C1 = .ok (.add 4 3 2) := by decide
theorem witness_IllegalWords : decode 0xFFFFFFFF = .error .unassignedOpcode := by decide
theorem witness_LevelOneProducts : extConst referenceParams 0 = 1#1 := by decide
theorem witness_DefaultGeneratorSquares : 0 < 8 ∧ 7 < 8 ∧ 2 ≤ 2 ∧ 2 ≤ 8 ∧ 8 ≤ 8 := by decide
theorem witness_InversionCorrect : ConstsIrreducible (defaultParams 2) ∧ 0 ≤ (defaultParams 2).maxLevel.val ∧
    2 ≤ (defaultParams 2).maxLevel.val ∧ (1#1 ≠ 0) ∧ (0xF#4 ≠ 0) := ⟨witness_irreducible, by decide⟩
theorem witness_InversionSoundUnderAnyConstants : invElem referenceParams 2 0x7 = .ok 0xF ∧
    invElem referenceParams 2 0x0 = .error .divByZero ∧ invElem ⟨1, Vector.replicate 8 0⟩ 1 0x3 = .error .divByZero := by
  decide +kernel
theorem witness_ClosedFormInverses : 0 ≤ 8 ∧ 8 ≤ 8 ∧ 0 < 8 ∧ 7 < 8 := by decide
theorem witness_DivisionLaws : ConstsIrreducible (defaultParams 2) ∧ 2 ≤ (defaultParams 2).maxLevel.val ∧ 0x8#4 ≠ 0 :=
  ⟨witness_irreducible, by decide⟩
theorem witness_DivisionIsProductByInverse : ConstsIrreducible (defaultParams 2) ∧
    2 ≤ (defaultParams 2).maxLevel.val ∧ 0x8#4 ≠ zeroElem 2 ∧ invElem (defaultParams 2) 2 0x8 = .ok 0xD :=
  ⟨witness_irreducible, by decide +kernel⟩
theorem witness_DefaultConstantsAreIrreducible : 0 < (defaultParams 8).maxLevel.val ∧
    7 < (defaultParams 8).maxLevel.val ∧ (1#2 ≠ 0) := by decide

/-- Here and in the other commands: a legal and an illegal word of the opcode, and the operands. -/
theorem witness_AddCommand : fieldOpc 0x421 = 0x1 ∧ fieldLvl 0x421 = 0 ∧ fieldRsv 0x421 = 0 ∧
    fieldOpc 0x20001 = 0x1 ∧ mixed.Ready 0 ∧ mixed.Ready 7 ∧ mixed.levelOf 0 = mixed.levelOf 7 ∧
    (mixed.reg 5).valid = false ∧ mixed.TooDeep 3 ∧ mixed.Ready 1 ∧ mixed.levelOf 0 ≠ mixed.levelOf 1 := by decide +kernel
theorem witness_MulCommand : fieldOpc 0x422 = 0x2 ∧ fieldLvl 0x422 = 0 ∧ fieldRsv 0x422 = 0 ∧
    fieldOpc 0x2002 = 0x2 ∧ mixed.Ready 0 ∧ mixed.Ready 7 ∧ mixed.levelOf 0 = mixed.levelOf 7 ∧
    (mixed.reg 5).valid = false ∧ mixed.TooDeep 3 ∧ mixed.Ready 1 ∧ mixed.levelOf 0 ≠ mixed.levelOf 1 := by decide +kernel
theorem witness_InvCommand : ConstsIrreducible small.params ∧
    (fieldOpc 0xC3 = 0x3 ∧ fieldRs2 0xC3 = 0 ∧ fieldLvl 0xC3 = 0 ∧ fieldRsv 0xC3 = 0 ∧ fieldOpc 0x403 = 0x3) ∧
    (small.Ready 0 ∧ small.elemAt 0 (small.levelOf 0) ≠ 0) ∧
    (small.Ready 3 ∧ small.levelOf 3 = 0 ∧ small.elemAt 3 (small.levelOf 3) ≠ 0) ∧
    (small.Ready 1 ∧ small.elemAt 1 (small.levelOf 1) = 0) ∧
    (mixed.Ready 7 ∧ invElem mixed.params (mixed.levelOf 7) (mixed.elemAt 7 (mixed.levelOf 7)) = .error .divByZero) ∧
    (mixed.Ready 1 ∧ invElem mixed.params (mixed.levelOf 1) (mixed.elemAt 1 (mixed.levelOf 1)) = .ok 3#2) ∧
    ((mixed.reg 5).valid = false ∧ mixed.TooDeep 3) := ⟨witness_irreducible, by decide +kernel⟩
theorem witness_DivCommand : ConstsIrreducible small.params ∧
    (fieldOpc 0x424 = 0x4 ∧ fieldLvl 0x424 = 0 ∧ fieldRsv 0x424 = 0 ∧ fieldOpc 0x20004 = 0x4) ∧
    (small.Ready 0 ∧ small.Ready 2 ∧ small.levelOf 0 = small.levelOf 2 ∧ small.elemAt 2 (small.levelOf 0) ≠ 0 ∧
      invElem small.params (small.levelOf 0) (small.elemAt 2 (small.levelOf 0)) = .ok 6#4) ∧
    (small.Ready 1 ∧ small.levelOf 0 = small.levelOf 1 ∧ small.elemAt 1 (small.levelOf 0) = 0 ∧
      invElem small.params (small.levelOf 0) (small.elemAt 1 (small.levelOf 0)) = .error .divByZero) ∧
    ((mixed.reg 5).valid = false ∧ mixed.TooDeep 3 ∧ mixed.Ready 0 ∧ mixed.Ready 1 ∧
      mixed.levelOf 0 ≠ mixed.levelOf 1) := ⟨witness_irreducible, by decide +kernel⟩
theorem witness_HiCommand : fieldOpc 0x15 = 0x5 ∧ fieldRs2 0x15 = 0 ∧ fieldLvl 0x15 = 0 ∧ fieldRsv 0x15 = 0 ∧
    fieldOpc 0x405 = 0x5 ∧ mixed.Ready 1 ∧ mixed.levelOf 1 = 0 + 1 ∧ mixed.Ready 2 ∧ mixed.levelOf 2 = 6 + 1 ∧
    mixed.Ready 0 ∧ mixed.levelOf 0 = 0 ∧ (mixed.reg 5).valid = false ∧ mixed.TooDeep 3 := by decide +kernel
theorem witness_LoCommand : fieldOpc 0x26 = 0x6 ∧ fieldRs2 0x26 = 0 ∧ fieldLvl 0x26 = 0 ∧ fieldRsv 0x26 = 0 ∧
    fieldOpc 0x406 = 0x6 ∧ mixed.Ready 1 ∧ mixed.levelOf 1 = 0 + 1 ∧ mixed.Ready 2 ∧ mixed.levelOf 2 = 6 + 1 ∧
    mixed.Ready 0 ∧ mixed.levelOf 0 = 0 ∧ (mixed.reg 5).valid = false ∧ mixed.TooDeep 4 := by decide +kernel
theorem witness_JoinCommand : fieldOpc 0x427 = 0x7 ∧ fieldLvl 0x427 = 0 ∧ fieldRsv 0x427 = 0 ∧ fieldOpc 0x2007 = 0x7 ∧
    mixed.Ready 0 ∧ mixed.Ready 7 ∧ mixed.levelOf 0 = mixed.levelOf 7 ∧ mixed.levelOf 0 + 1 ≤ mixed.params.maxLevel.val ∧
    mixed.Ready 6 ∧ mixed.levelOf 6 + 1 ≤ mixed.params.maxLevel.val ∧
    mixed.Ready 2 ∧ mixed.params.maxLevel.val < mixed.levelOf 2 + 1 ∧
    (mixed.reg 5).valid = false ∧ mixed.TooDeep 3 ∧ mixed.Ready 1 ∧ mixed.levelOf 0 ≠ mixed.levelOf 1 := by decide +kernel
theorem witness_ZeroCommand : fieldOpc 0x18 = 0x8 ∧ fieldRs1 0x18 = 0 ∧ fieldRs2 0x18 = 0 ∧ fieldRsv 0x18 = 0 ∧
    fieldOpc 0x88 = 0x8 ∧ (0 : LevelImm).val ≤ mixed.params.maxLevel.val ∧ (7 : LevelImm).val ≤ mixed.params.maxLevel.val ∧
    mixed.params.maxLevel.val < (8 : LevelImm).val ∧ mixed.params.maxLevel.val < (15 : LevelImm).val := by decide
theorem witness_OneCommand : fieldOpc 0x6009 = 0x9 ∧ fieldRs1 0x6009 = 0 ∧ fieldRs2 0x6009 = 0 ∧ fieldRsv 0x6009 = 0 ∧
    fieldOpc 0x409 = 0x9 ∧ (0 : LevelImm).val ≤ mixed.params.maxLevel.val ∧ (7 : LevelImm).val ≤ mixed.params.maxLevel.val ∧
    mixed.params.maxLevel.val < (8 : LevelImm).val ∧ mixed.params.maxLevel.val < (15 : LevelImm).val := by decide
/-- The two states differ in E0.DATA above the element. -/
theorem witness_CommandsReadOnlyTheirElements :
    (withRegs [el 2 0xF3]).params = (withRegs [el 2 0x03]).params ∧ (withRegs [el 2 0xF3]) ≠ (withRegs [el 2 0x03]) ∧
    ∀ r ∈ (Instr.add 1 0 0).sources,
      ((withRegs [el 2 0xF3]).reg r).valid = ((withRegs [el 2 0x03]).reg r).valid ∧
      ((withRegs [el 2 0xF3]).reg r).level = ((withRegs [el 2 0x03]).reg r).level ∧
      ∀ n, n < 2 ^ (withRegs [el 2 0x03]).levelOf r →
        ((withRegs [el 2 0xF3]).reg r).data.getLsbD n = ((withRegs [el 2 0x03]).reg r).data.getLsbD n := by decide +kernel
theorem witness_DivideThenMultiplyRestores : ConstsIrreducible small.params ∧ small.Ready 0 ∧ small.Ready 2 ∧
    small.levelOf 0 = small.levelOf 2 ∧ small.elemAt 2 (small.levelOf 0) ≠ 0 ∧ (5 : RegIdx) ≠ 2 :=
  ⟨witness_irreducible, by decide +kernel⟩
/-- SPLIT with rh ≠ rs, at both ends of the levels. -/
theorem witness_PseudoInstructions : (1 : RegIdx) ≠ 2 ∧ mixed.Ready 2 ∧ mixed.levelOf 2 = 6 + 1 ∧
    (2 : RegIdx) ≠ 1 ∧ mixed.Ready 1 ∧ mixed.levelOf 1 = 0 + 1 := by decide +kernel

theorem witness_StepRunsDecodedCommand :
    (before mixed (cmdWrite 0x9C1)).host = cmdWrite 0x9C1 :: [] ∧ (before mixed (cmdWrite 0x9C1)).resetIn = false ∧
    (before mixed (cmdWrite 0x9C1)).err = false ∧ decode 0x9C1 = .ok (.add 4 3 2) := by decide +kernel
theorem witness_StepRecordsIllegalWord :
    (before mixed (cmdWrite 0)).host = cmdWrite 0 :: [] ∧ (before mixed (cmdWrite 0)).resetIn = false ∧
    (before mixed (cmdWrite 0)).err = false ∧ decode 0 = .error .unassignedOpcode := by decide +kernel
theorem witness_CommandDroppedWhileError : (before inError (cmdWrite 0x6029)).host = cmdWrite 0x6029 :: [] ∧
    (before inError (cmdWrite 0x6029)).resetIn = false ∧ (before inError (cmdWrite 0x6029)).err = true := by decide +kernel
theorem witness_StatusWriteClearsRecord :
    ((before inError (writeAt 0x00C 2)).host = writeAt 0x00C 2 :: [] ∧ (before inError (writeAt 0x00C 2)).resetIn = false ∧
      (2 : Word).getLsbD 1 = true) ∧
    ((before inError (writeAt 0x00C 4)).host = writeAt 0x00C 4 :: [] ∧ (4 : Word).getLsbD 1 = false) ∧
    (({ inError with host := [writeAt 0x00C 2, cmdWrite 0x6029] } : State).host
      = writeAt 0x00C 2 :: cmdWrite 0x6029 :: [] ∧ decode 0x6029 = .ok (.one 2 3)) := by decide +kernel
theorem witness_ErrChangesOnlyByHostOrCommand :
    (∃ t, step (before inError (writeAt 0x00C 2)) = .next t ∧ inError.err = true ∧ t.err = false) ∧
    (∃ t, step (before mixed (cmdWrite 0)) = .next t ∧ mixed.err = false ∧ t.err = true) :=
  ⟨⟨_, rfl, rfl, rfl⟩, ⟨_, rfl, rfl, rfl⟩⟩
theorem witness_RegistersChangeOnlyByOwners :
    (∃ t, step (before State.reset (cmdWrite 0x6009)) = .next t ∧ t.reg 0 ≠ State.reset.reg 0) ∧
    (∃ t, step (before State.reset (writeAt (tagOffset 0) 0x102)) = .next t ∧ t.reg 0 ≠ State.reset.reg 0) ∧
    (∃ t, step (before State.reset (writeAt (dataOffset 0 0) 1)) = .next t ∧ t.reg 0 ≠ State.reset.reg 0) ∧
    (∃ t, step (before mixed (.resetLine true)) = .next t ∧ t.reg 0 ≠ mixed.reg 0) :=
  ⟨⟨_, rfl, by decide +kernel⟩, ⟨_, rfl, by decide +kernel⟩, ⟨_, rfl, by decide +kernel⟩, ⟨_, rfl, by decide +kernel⟩⟩
theorem witness_PollingIsInvisible : mixed.resetIn = false := by decide

theorem witness_ControlRegistersRead : (before mixed (writeAt 0x010 7)).host = writeAt 0x010 7 :: [] ∧
    (before mixed (writeAt 0x000 7)).host = writeAt 0x000 7 :: [] ∧
    (before mixed (writeAt 0x004 7)).host = writeAt 0x004 7 :: [] ∧ mixed.resetIn = false := by decide +kernel
theorem witness_TagAccess : (before mixed (writeAt (tagOffset 7) 0x10F)).host = writeAt (tagOffset 7) 0x10F :: [] ∧
    mixed.resetIn = false := by decide +kernel
/-- Both sides of W = 128: the last bit of word 3, the first of word 4. -/
theorem witness_DataAccess : (before mixed (writeAt (dataOffset 7 3) 1)).host = writeAt (dataOffset 7 3) 1 :: [] ∧
    mixed.resetIn = false ∧ 32 * 3 + 31 < 2 ^ mixed.params.maxLevel.val ∧
    ¬ 32 * 4 + 0 < 2 ^ mixed.params.maxLevel.val := by decide +kernel
/-- k = 1 and 7 exist, k = 0 and 8 do not. -/
theorem witness_ConstWindow : (1 : Fin 9).val = 0 + 1 ∧ (7 : Fin 9).val = 6 + 1 ∧
    (7 : Fin 9).val ≤ mixed.params.maxLevel.val ∧ (0 : Fin 9).val = 0 ∧ mixed.params.maxLevel.val < (8 : Fin 9).val ∧
    (before mixed (writeAt (constOffset 8 7) 5)).host = writeAt (constOffset 8 7) 5 :: [] ∧ mixed.resetIn = false ∧
    (∃ t, step (before mixed (writeAt (constOffset 8 7) 5)) = .next t) :=
  ⟨rfl, rfl, by decide, rfl, by decide, rfl, rfl, ⟨_, rfl⟩⟩
/-- The ends of the reserved ranges, of the read-only ranges, and of the reserved bits. -/
theorem witness_ReservedReadsZeroIgnoresWrites :
    ([0x014, 0x0FC, 0x300, 0x3FC, 0x520, 0xFFC, 0x104, 0x11C, 0x2C4, 0x2DC] : List Offset).all (fun off =>
      decide (off.toNat % 4 = 0 ∧
        ((0x14 ≤ off.toNat ∧ off.toNat < 0x100) ∨ (0x300 ≤ off.toNat ∧ off.toNat < 0x400) ∨ 0x520 ≤ off.toNat ∨
          (0x100 ≤ off.toNat ∧ off.toNat < 0x300 ∧ 4 ≤ (off.toNat - 0x100) % 0x40 ∧
            (off.toNat - 0x100) % 0x40 < 0x20)))) = true ∧
    ([0x000, 0x004, 0x010, 0x400, 0x51C] : List Offset).all (fun off =>
      decide (off.toNat % 4 = 0 ∧
        (off.toNat < 0x008 ∨ off.toNat = 0x010 ∨ (0x400 ≤ off.toNat ∧ off.toNat < 0x520)))) = true ∧
    (before mixed (readAt 0x014)).host = readAt 0x014 :: [] ∧ (before mixed (writeAt 0x014 1)).host = writeAt 0x014 1 :: [] ∧
    (before mixed (writeAt 0x000 1)).host = writeAt 0x000 1 :: [] ∧ mixed.resetIn = false ∧
    ((0x102 : Word).extractLsb' 0 4 = (0xFFFFFFF2 : Word).extractLsb' 0 4 ∧
      (0x102 : Word).getLsbD 8 = (0xFFFFFFF2 : Word).getLsbD 8) ∧
    (0x2 : Word).getLsbD 1 = (0xFFFFFFFF : Word).getLsbD 1 := by decide +kernel
theorem witness_ReadHasNoSideEffect : (before mixed (readAt 0xFFC)).host = readAt 0xFFC :: [] ∧
    (0xFFC : Offset).toNat % 4 = 0 ∧ mixed.resetIn = false := by decide +kernel
theorem witness_OnlyUnsupportedAccessRefused :
    (before mixed (.access ⟨1, 0, .read⟩)).host = .access ⟨1, 0, .read⟩ :: [] ∧ (1 ≠ 4) ∧
    (before mixed (readAt 0x00E)).host = .access ⟨4, 0x00E, .read⟩ :: [] ∧ (0x00E : Offset).toNat % 4 ≠ 0 := by
  decide +kernel
theorem witness_WindowStandsAtBase : 0 < 4096 ∧ 4095 < 4096 ∧ Config.tauBase + 4096 ≤ Config.tauBase + 4096 := by simp
theorem witness_ResetValues : mixed.params = referenceParams := rfl
/-- Asserted, released, and a write, a read and nothing while asserted. -/
theorem witness_ResetInput :
    (before mixed (.resetLine true)).host = .resetLine true :: [] ∧
    ((before { mixed with resetIn := true } (.resetLine false)).host = .resetLine false :: [] ∧
      (before { mixed with resetIn := true } (.resetLine false)).resetIn = true) ∧
    ((before { mixed with resetIn := true } (writeAt 0x008 0x6009)).host = writeAt 0x008 0x6009 :: [] ∧
      (0x008 : Offset).toNat % 4 = 0) ∧
    ((before { mixed with resetIn := true } (readAt 0xFFC)).host = readAt 0xFFC :: [] ∧
      (0xFFC : Offset).toNat % 4 = 0) ∧
    ({ mixed with resetIn := true }.host = [] ∧ { mixed with resetIn := true }.resetIn = true) := by decide +kernel
theorem witness_ConfigurationNeverChanges : (∃ t, step mixed = .next t) ∧ 0 + 1 < 9 ∧ 6 + 1 < 9 ∧
    6 + 1 ≤ mixed.params.maxLevel.val ∧ 0 < 2 ^ 0 ∧ 63 < 2 ^ 6 := ⟨⟨_, rfl⟩, by decide⟩

/-- A state of the invariant with a recorded illegal word, about to be cleared. -/
theorem witness_EveryStepKeepsInvariant :
    (before { State.reset with err := true, errCode := 5 } (writeAt 0x00C 2)).Inv ∧
    ∃ t, step (before { State.reset with err := true, errCode := 5 } (writeAt 0x00C 2)) = .next t := by
  have illegal : decode 0 = .error .unassignedOpcode := by decide
  refine ⟨⟨rfl, ⟨by decide, fun _ => ⟨by decide, by decide, ⟨fun _ i h => ?_, fun _ => rfl⟩⟩⟩, by decide +kernel,
    by decide⟩, ⟨_, rfl⟩⟩
  have h' : decode 0 = .ok i := h
  rw [illegal] at h'
  cases h'

end Sys2Proof.Tests
end

section
/-! PROOFS. The family of 10_state.md: the configuration (R38), the control registers as read (R43 to R47) and the
window of constants (R50). First what each layer of a step does to the configuration and what a host write to a
register other than CMD does; then the words that the window shows; last the three statements. -/

namespace Sys2Proof.Machine

/-! ### The configuration through a step (R38) -/

theorem exec_eq_finishCommand (i : Instr) (s : State) : ∃ r, exec i s = finishCommand i (encode i) s r := by
  cases i <;> exact ⟨_, rfl⟩

/-- An executed word writes one result to its destination or records one error. -/
theorem executeWord_cases (w : Word) (s : State) :
    (∃ i a, decode w = .ok i ∧ executeWord w s = .next (s.writeResult i.dest a)) ∨
    (∃ c w', executeWord w s = .next (s.raise c w')) := by
  unfold executeWord
  cases decode w with
  | error _ => exact .inr ⟨_, _, rfl⟩
  | ok i =>
    obtain ⟨r, hr⟩ := exec_eq_finishCommand i s
    cases r with
    | ok a => exact .inl ⟨i, a, rfl, hr⟩
    | error c => exact .inr ⟨c, _, hr⟩

@[simp] theorem enterBusy_params (s : State) : (enterBusy s).params = s.params := by
  obtain ⟨q, r, h⟩ := enterBusy_frame s
  rw [h]

@[simp] theorem writeRegister_params (s : State) (v : Word) (r : WindowReg) :
    (writeRegister s v r).params = s.params := by
  cases r with
  | status => simp only [writeRegister]; split <;> rfl
  | _ => rfl

@[simp] theorem serveInReset_params (a : Access) (s : State) : (serveInReset a s).params = s.params := by
  unfold serveInReset
  split <;> rfl

@[simp] theorem driveReset_params (b : Bool) (s : State) : (driveReset b s).params = s.params := by
  unfold driveReset
  split <;> rfl

@[simp] theorem idle_params (s : State) : (idle s).params = s.params := by
  unfold idle
  split <;> rfl

theorem issueCommand_params {w : Word} {s t : State} (h : issueCommand w s = .next t) : t.params = s.params := by
  unfold issueCommand at h
  split at h
  · cases h; rfl
  · obtain ⟨u, hu, rfl⟩ := mapNext_eq_next h
    obtain ⟨i, a, -, hw⟩ | ⟨c, w', hw⟩ := executeWord_cases w (enterBusy s) <;>
      · obtain rfl := Host.Outcome.next.inj (hw.symm.trans hu)
        simp

theorem serveAccess_params {a : Access} {s t : State} (h : serveAccess a s = .next t) : t.params = s.params := by
  unfold serveAccess at h
  split at h
  · cases h; rfl
  · split at h
    · exact issueCommand_params h
    · cases h; simp

theorem serveEvent_params {ev : HostEvent} {s t : State} (h : serveEvent ev s = .next t) : t.params = s.params := by
  unfold serveEvent at h
  split at h
  · cases h; simp
  · split at h
    · cases h
    · split at h
      · cases h; simp
      · exact serveAccess_params h

theorem step_params {s t : State} (h : step s = .next t) : t.params = s.params := by
  obtain ⟨-, hs⟩ | ⟨ev, q, -, hs⟩ := step_cases s
  · obtain rfl := Host.Outcome.next.inj (hs.symm.trans h)
    simp
  · exact (serveEvent_params (hs.symm.trans h) :)

/-! ### A host write to a register other than CMD (R62, R67) -/

/-- Outside reset, a 32-bit write at a multiple of 4 whose register is not CMD does what writeRegister says. -/
theorem step_writeAt {s : State} {q : List HostEvent} {off : Offset} {v : Word} (hhost : s.host = writeAt off v :: q)
    (hreset : s.resetIn = false) (haligned : off.toNat % 4 = 0) (hcmd : registerAt off ≠ .cmd) :
    step s = .next (writeRegister { s with host := q } v (registerAt off)) := by
  simp [step, serveHost, hhost, writeAt, serveEvent, Access.supported, haligned, hreset, serveAccess, hcmd]

/-! ### The control registers as read (R43 to R47) -/

@[simp] theorem registerAt_id : registerAt 0#12 = .id := by decide

@[simp] theorem registerAt_config : registerAt 4#12 = .config := by decide

@[simp] theorem registerAt_errCmd : registerAt 16#12 = .errCmd := by decide

@[simp] theorem hostRead_id (s : State) : hostRead s 0#12 = idWord := by simp [hostRead, readRegister]

@[simp] theorem hostRead_config (s : State) : hostRead s 4#12 = configWord s.params := by
  simp [hostRead, readRegister]

@[simp] theorem hostRead_cmd (s : State) : hostRead s 8#12 = 0 := by simp [hostRead, readRegister]

@[simp] theorem hostRead_status (s : State) : hostRead s 12#12 = statusWord s := by simp [hostRead, readRegister]

@[simp] theorem hostRead_errCmd (s : State) : hostRead s 16#12 = s.errCmd := by simp [hostRead, readRegister]

theorem configWord_eq_append (p : Params) :
    configWord p = (0#24 ++ 3#4 ++ BitVec.ofNat 4 p.maxLevel.val : BitVec 32) := by
  have layout : ∀ m : Fin 9,
      BitVec.ofNat 32 m.val ||| (3#32 <<< 4) = (0#24 ++ 3#4 ++ BitVec.ofNat 4 m.val : BitVec 32) := by decide
  exact layout p.maxLevel

theorem getLsbD_bitAt (b : Bool) (pos j : Nat) :
    (bitAt b pos).getLsbD j = (decide (j < 32) && decide (j = pos) && b) := by
  simp only [bitAt, BitVec.getLsbD_shiftLeft, BitVec.getLsbD_setWidth, BitVec.getLsbD_ofBool]
  grind

theorem statusWord_eq_append (s : State) :
    statusWord s = (0#24 ++ s.errCode ++ 0#1 ++ BitVec.ofBool s.drop ++ BitVec.ofBool s.err ++
      BitVec.ofBool s.busy : BitVec 32) := by
  apply BitVec.eq_of_getLsbD_eq
  intro j hj
  simp only [statusWord, BitVec.getLsbD_or, getLsbD_bitAt, BitVec.getLsbD_append]
  grind

/-! ### The window of constants (R50) -/

theorem constOffset_aligned : ∀ (k : Fin 9) (w : Fin 8), (constOffset k w).toNat % 4 = 0 := by decide

@[simp] theorem hostRead_constOffset (s : State) (k : Fin 9) (w : Fin 8) :
    hostRead s (constOffset k w) = (constValue s.params k.val).extractLsb' (32 * w.val) 32 := by
  simp [hostRead, readRegister]

theorem constValue_succ {p : Params} {j : Nat} (h : j + 1 ≤ p.maxLevel.val) :
    constValue p (j + 1) = (extConst p j).setWidth 256 := by
  simp [constValue, Nat.not_lt.mpr h]

theorem constValue_eq_zero {p : Params} {k : Nat} (h : k = 0 ∨ p.maxLevel.val < k) : constValue p k = 0 := by
  cases k with
  | zero => rfl
  | succ j => simp [constValue, h.resolve_left (Nat.succ_ne_zero j)]

/-- Bit n of a 256-bit value is bit n % 32 of its 32-bit word n / 32. -/
theorem getLsbD_word_of_data (d : Data) {n : Nat} (h : n < 256) :
    (d.extractLsb' (32 * (Fin.ofNat 8 (n / 32)).val) 32).getLsbD (n % 32) = d.getLsbD n := by
  have hword : (Fin.ofNat 8 (n / 32)).val = n / 32 := Nat.mod_eq_of_lt (by omega)
  have hbit : n % 32 < 32 := Nat.mod_lt _ (by decide)
  rw [hword, BitVec.getLsbD_extractLsb', Nat.div_add_mod]
  simp [hbit]

/-! ### The statements -/

/-- Settles O53: every layer of a step keeps the configuration, and each bit of c_(j+1) stands in its word. -/
theorem configurationNeverChanges : Obligations.ConfigurationNeverChanges := by
  refine ⟨fun s t => step_params, fun s j hj hlevel n hn => ?_⟩
  have hwidth : n < 256 := hn.trans_le (Nat.pow_le_pow_right (by decide) (by omega : j ≤ 8))
  rw [hostRead_constOffset, getLsbD_word_of_data _ hwidth, constValue_succ hlevel]
  simp [hwidth]

/-- Settles O46: the window reads constValue, which depends on the configuration alone. -/
theorem constWindow : Obligations.ConstWindow := by
  intro s k w
  refine ⟨fun j hk hlevel => ?_, fun hk => ?_, fun q v hhost hreset => ?_, fun t ht => ?_⟩
  · rw [hostRead_constOffset, hk, constValue_succ (hk ▸ hlevel)]
  · simp [constValue_eq_zero hk]
  · simpa [writeRegister] using step_writeAt hhost hreset (constOffset_aligned k w) (by simp)
  · simp [step_params ht]

/-- Settles O43: each control register's layout, and the three that are read-only ignore what is written. -/
theorem controlRegistersRead : Obligations.ControlRegistersRead := by
  intro s
  refine ⟨hostRead_id s, (hostRead_config s).trans (configWord_eq_append s.params), hostRead_cmd s,
    (hostRead_status s).trans (statusWord_eq_append s), hostRead_errCmd s, ?_⟩
  rintro q v off (rfl | rfl | rfl) hhost hreset <;>
    simpa [writeRegister] using step_writeAt hhost hreset (by decide) (by decide)

end Sys2Proof.Machine
end

section
/-! PROOFS. The family of 20_memory.md: host accesses to TAG (R63) and DATA (R64), reserved offsets and bits (R62),
and which accesses are refused (R66). First how a step serves one access; then the offsets and registers that ignore
writes; then the words TAG and DATA bit by bit; last the four statements. -/

namespace Sys2Proof.Machine

/-! ### One access served by a step (R66, R67) -/

/-- Outside reset, a 32-bit read at a multiple of 4 returns the register and takes the access from the pending ones. -/
theorem step_readAt {s : State} {q : List HostEvent} {off : Offset} (hhost : s.host = readAt off :: q)
    (hreset : s.resetIn = false) (haligned : off.toNat % 4 = 0) :
    step s = .next (State.reply { s with host := q } (hostRead { s with host := q } off)) := by
  simp [step, serveHost, hhost, readAt, serveEvent, Access.supported, haligned, hreset, serveAccess]

/-- Two words that the register takes alike make the same step. -/
theorem step_writeAt_congr {s : State} {q : List HostEvent} {off : Offset} {v v' : Word} (hreset : s.resetIn = false)
    (haligned : off.toNat % 4 = 0) (hcmd : registerAt off ≠ .cmd)
    (hsame : writeRegister { s with host := q } v (registerAt off) =
      writeRegister { s with host := q } v' (registerAt off)) :
    step { s with host := writeAt off v :: q } = step { s with host := writeAt off v' :: q } := by
  have hstep : ∀ u, step { s with host := writeAt off u :: q } =
      .next (writeRegister { s with host := q } u (registerAt off)) :=
    fun u => step_writeAt rfl hreset haligned hcmd
  rw [hstep v, hstep v', hsame]

theorem supported_eq_false_iff (a : Access) : a.supported = false ↔ a.size ≠ 4 ∨ a.offset.toNat % 4 ≠ 0 := by
  simp [Access.supported, ← imp_iff_not_or]

theorem executeWord_next (w : Word) (s : State) : ∃ t, executeWord w s = .next t := by
  obtain ⟨i, a, -, h⟩ | ⟨c, w', h⟩ := executeWord_cases w s
  · exact ⟨_, h⟩
  · exact ⟨_, h⟩

theorem issueCommand_next (w : Word) (s : State) : ∃ t, issueCommand w s = .next t := by
  unfold issueCommand
  split
  · exact ⟨_, rfl⟩
  · obtain ⟨t, ht⟩ := executeWord_next w (enterBusy s)
    exact ⟨_, by rw [ht, mapNext_next]⟩

theorem serveAccess_next (a : Access) (s : State) : ∃ t, serveAccess a s = .next t := by
  unfold serveAccess
  split
  · exact ⟨_, rfl⟩
  · split
    · exact issueCommand_next _ s
    · exact ⟨_, rfl⟩

theorem serveEvent_unsupported {a : Access} (h : a.supported = false) (s : State) :
    serveEvent (.access a) s = .refused .unsupportedAccess := by
  simp [serveEvent, h]

/-- Serving an event stops at nothing but an unsupported access. -/
theorem serveEvent_cases (ev : HostEvent) (s : State) :
    (∃ t, serveEvent ev s = .next t) ∨ (∃ a, ev = .access a ∧ a.supported = false) := by
  cases ev with
  | resetLine b => exact .inl ⟨_, rfl⟩
  | access a =>
    cases hsup : a.supported with
    | false => exact .inr ⟨a, rfl, hsup⟩
    | true =>
      left
      cases hreset : s.resetIn with
      | true => exact ⟨serveInReset a s, by simp [serveEvent, hsup, hreset]⟩
      | false => simpa [serveEvent, hsup, hreset] using serveAccess_next a s

/-! ### Reserved offsets and registers that ignore writes (R61, R62) -/

/-- The byte offsets that R61 gives to no register, the gaps in the blocks of the element registers last. -/
def ReservedOffset (o : Nat) : Prop :=
  (0x14 ≤ o ∧ o < 0x100) ∨ (0x300 ≤ o ∧ o < 0x400) ∨ 0x520 ≤ o ∨
    (0x100 ≤ o ∧ o < 0x300 ∧ 4 ≤ (o - 0x100) % 0x40 ∧ (o - 0x100) % 0x40 < 0x20)

/-- The registers whose writes do nothing: the read-only ones and the reserved offsets (R62). -/
def WindowReg.ignoresWrites : WindowReg → Bool
  | .id | .config | .errCmd | .const _ _ | .reserved => true
  | .cmd | .status | .tag _ | .data _ _ => false

theorem writeRegister_of_ignoresWrites {r : WindowReg} (h : r.ignoresWrites) (s : State) (v : Word) :
    writeRegister s v r = s := by
  cases r with
  | id | config | errCmd | const _ _ | reserved => rfl
  | cmd | status | tag _ | data _ _ => cases h

/-- A write to a register that ignores writes is served and changes nothing. -/
theorem step_writeAt_ignored {s : State} {q : List HostEvent} {off : Offset} {v : Word}
    (hignores : (registerAt off).ignoresWrites) (haligned : off.toNat % 4 = 0)
    (hhost : s.host = writeAt off v :: q) (hreset : s.resetIn = false) : step s = .next { s with host := q } := by
  have hcmd : registerAt off ≠ .cmd := by
    intro h
    rw [h] at hignores
    cases hignores
  rw [step_writeAt hhost hreset haligned hcmd, writeRegister_of_ignoresWrites hignores]

theorem elementBlockReg_gap (i : RegIdx) {r : Nat} (hlow : 4 ≤ r) (hhigh : r < 0x20) :
    elementBlockReg i r = .reserved := by
  simp [elementBlockReg, hhigh, show r ≠ 0 by omega]

theorem registerAt_of_reservedOffset {off : Offset} (h : ReservedOffset off.toNat) : registerAt off = .reserved := by
  unfold registerAt
  obtain ⟨hlow, hhigh⟩ | ⟨hlow, hhigh⟩ | hlow | ⟨hlow, hhigh, hblock⟩ := h <;>
    grind [elementBlockReg_gap]

theorem registerAt_of_constRange {off : Offset} (hlow : 0x400 ≤ off.toNat) (hhigh : off.toNat < 0x520) :
    ∃ k w, registerAt off = .const k w := by
  refine ⟨Fin.ofNat 9 ((off.toNat - 0x400) / 0x20), Fin.ofNat 8 ((off.toNat - 0x400) % 0x20 / 4), ?_⟩
  unfold registerAt
  grind

/-- ID and CONFIG, ERR_CMD, and the constants window: the read-only registers of R61. -/
theorem ignoresWrites_of_readOnly {off : Offset} (haligned : off.toNat % 4 = 0)
    (h : off.toNat < 0x008 ∨ off.toNat = 0x010 ∨ (0x400 ≤ off.toNat ∧ off.toNat < 0x520)) :
    (registerAt off).ignoresWrites := by
  obtain hlow | herrCmd | ⟨hlow, hhigh⟩ := h
  · obtain h0 | h4 : off = 0#12 ∨ off = 4#12 := by bv_omega
    · rw [h0, registerAt_id]; rfl
    · rw [h4, registerAt_config]; rfl
  · rw [show off = 16#12 by bv_omega, registerAt_errCmd]; rfl
  · obtain ⟨k, w, hconst⟩ := registerAt_of_constRange hlow hhigh
    rw [hconst]; rfl

/-! ### TAG (R48, R63) -/

theorem tagOffset_aligned : ∀ i : RegIdx, (tagOffset i).toNat % 4 = 0 := by decide

@[simp] theorem hostRead_tagOffset (s : State) (i : RegIdx) : hostRead s (tagOffset i) = tagWord (s.reg i) := by
  simp [hostRead, readRegister]

theorem getLsbD_tagWord (r : ElementReg) (j : Nat) :
    (tagWord r).getLsbD j = (r.level.getLsbD j || (decide (j = 8) && r.valid)) := by
  have hlevel : 4 ≤ j → r.level.getLsbD j = false := BitVec.getLsbD_of_ge _ _
  simp only [tagWord, BitVec.getLsbD_or, BitVec.getLsbD_setWidth, getLsbD_bitAt]
  grind

theorem tagWord_eq_append (r : ElementReg) :
    tagWord r = (BitVec.ofBool r.valid ++ 0#4 ++ r.level : BitVec 9).setWidth 32 := by
  apply BitVec.eq_of_getLsbD_eq
  intro j hj
  have hlevel : 4 ≤ j → r.level.getLsbD j = false := BitVec.getLsbD_of_ge _ _
  simp only [getLsbD_tagWord, BitVec.getLsbD_setWidth, BitVec.getLsbD_append]
  grind

theorem getLsbD_tagWord_reserved (r : ElementReg) {j : Nat} (hj : (4 ≤ j ∧ j < 8) ∨ 9 ≤ j) :
    (tagWord r).getLsbD j = false := by
  simp [getLsbD_tagWord, BitVec.getLsbD_of_ge, show 4 ≤ j by omega, show j ≠ 8 by omega]

theorem writeTag_congr (r : ElementReg) {v v' : Word} (hlevel : v.extractLsb' 0 4 = v'.extractLsb' 0 4)
    (hvalid : v.getLsbD 8 = v'.getLsbD 8) : writeTag r v = writeTag r v' := by
  simp only [writeTag, hlevel, hvalid]

/-! ### The reserved bits of STATUS and CONFIG (R44, R46, R62) -/

theorem getLsbD_statusWord_reserved (s : State) {j : Nat} (hj : j = 3 ∨ 8 ≤ j) :
    (statusWord s).getLsbD j = false := by
  have hcode : 4 ≤ j - 4 → s.errCode.getLsbD (j - 4) = false := BitVec.getLsbD_of_ge _ _
  simp only [statusWord, BitVec.getLsbD_or, getLsbD_bitAt, BitVec.getLsbD_shiftLeft, BitVec.getLsbD_setWidth]
  grind

theorem getLsbD_configWord_reserved (p : Params) {j : Nat} (hj : 8 ≤ j) : (configWord p).getLsbD j = false := by
  simp only [configWord_eq_append, BitVec.getLsbD_append]
  grind

/-! ### DATA (R49, R64) -/

theorem dataOffset_aligned : ∀ (i : RegIdx) (w : Fin 8), (dataOffset i w).toNat % 4 = 0 := by decide

@[simp] theorem hostRead_dataOffset (s : State) (i : RegIdx) (w : Fin 8) :
    hostRead s (dataOffset i w) = dataWord s.params (s.reg i) w := by
  simp [hostRead, readRegister]

theorem dataWidth_le (p : Params) : dataWidth p ≤ 256 :=
  Nat.pow_le_pow_right (by decide) (Nat.le_of_lt_succ p.maxLevel.isLt : p.maxLevel.val ≤ 8)

theorem getLsbD_dataMask (p : Params) (n : Nat) : (dataMask p).getLsbD n = decide (n < dataWidth p) := by
  have := dataWidth_le p
  simp only [dataMask, BitVec.getLsbD_setWidth, BitVec.getLsbD_allOnes]
  grind

theorem getLsbD_laneMask (w : Fin 8) (n : Nat) :
    (laneMask w).getLsbD n = (decide (32 * w.val ≤ n) && decide (n < 32 * w.val + 32)) := by
  simp only [laneMask, BitVec.getLsbD_shiftLeft, BitVec.getLsbD_setWidth, BitVec.getLsbD_allOnes]
  grind

theorem getLsbD_dataWord (p : Params) (r : ElementReg) (w : Fin 8) {j : Nat} (hj : j < 32) :
    (dataWord p r w).getLsbD j =
      if 32 * w.val + j < dataWidth p then r.data.getLsbD (32 * w.val + j) else false := by
  simp [dataWord, hj, getLsbD_dataMask, Bool.and_comm]

/-- A DATA write replaces the bits of its word that exist and keeps every other bit. -/
theorem getLsbD_writeDataWord (p : Params) (r : ElementReg) (w : Fin 8) (v : Word) (n : Nat) :
    (writeDataWord p r w v).data.getLsbD n =
      if 32 * w.val ≤ n ∧ n < 32 * w.val + 32 ∧ n < dataWidth p
      then v.getLsbD (n - 32 * w.val) else r.data.getLsbD n := by
  have := dataWidth_le p
  have hdata : 256 ≤ n → r.data.getLsbD n = false := BitVec.getLsbD_of_ge _ _
  simp only [writeDataWord, BitVec.getLsbD_or, BitVec.getLsbD_and, BitVec.getLsbD_not, BitVec.getLsbD_shiftLeft,
    BitVec.getLsbD_setWidth, getLsbD_laneMask, getLsbD_dataMask]
  grind

/-! ### The statements -/

/-- Settles O45: the word read and the DATA written, each bit by bit; a write goes to writeDataWord, which keeps VALID
and LEVEL. -/
theorem dataAccess : Obligations.DataAccess := by
  intro s i w
  refine ⟨fun j hj => ?_, fun q v hhost hreset => ?_⟩
  · rw [hostRead_dataOffset, getLsbD_dataWord _ _ _ hj, dataWidth]
  · refine ⟨(writeDataWord s.params (s.reg i) w v).data, ?_, getLsbD_writeDataWord s.params (s.reg i) w v⟩
    rw [step_writeAt hhost hreset (dataOffset_aligned i w) (by simp), registerAt_dataOffset]
    rfl

/-- Settles O47: the reserved ranges are registerAt's reserved register, the read-only ones ignore writes, and the
words of TAG, STATUS and CONFIG are 0 at their reserved bits and depend on the others alone. -/
theorem reservedReadsZeroIgnoresWrites : Obligations.ReservedReadsZeroIgnoresWrites := by
  refine ⟨fun s off haligned hoff => ?_, fun s off haligned hoff q v => ?_,
    fun s i j => ⟨fun hj => ?_, fun hj => ?_, fun hj => ?_⟩,
    fun s i q v v' hreset => ⟨fun hlevel hvalid => ?_, fun hclear => ?_⟩⟩
  · have hreg : registerAt off = .reserved := registerAt_of_reservedOffset hoff
    have hread : ∀ t, hostRead t off = 0 := fun t => by simp [hostRead, hreg, readRegister]
    refine ⟨hread s, fun q hhost hreset => ?_, fun q v => step_writeAt_ignored (by rw [hreg]; rfl) haligned⟩
    rw [step_readAt hhost hreset haligned, hread]
    rfl
  · exact step_writeAt_ignored (ignoresWrites_of_readOnly haligned hoff) haligned
  · simpa using getLsbD_tagWord_reserved (s.reg i) hj
  · simpa using getLsbD_statusWord_reserved s hj
  · simpa using getLsbD_configWord_reserved s.params hj
  · refine step_writeAt_congr hreset (tagOffset_aligned i) (by simp) ?_
    simp only [registerAt_tagOffset, writeRegister, writeTag_congr _ hlevel hvalid]
  · refine step_writeAt_congr hreset (by decide) (by decide) ?_
    simp only [BitVec.ofNat_eq_ofNat, registerAt_status, writeRegister, hclear]

/-- Settles O49: only serveEvent refuses, and only an unsupported access; every layer below it has a next state. -/
theorem onlyUnsupportedAccessRefused : Obligations.OnlyUnsupportedAccessRefused := by
  refine ⟨fun s a q hhost hbad => ?_, fun s => ?_⟩
  · simpa [step, serveHost, hhost] using serveEvent_unsupported ((supported_eq_false_iff a).mpr hbad) _
  · obtain ⟨-, hstep⟩ | ⟨ev, q, hhost, hstep⟩ := step_cases s
    · exact .inl ⟨_, hstep⟩
    · obtain ⟨t, ht⟩ | ⟨a, rfl, hsup⟩ := serveEvent_cases ev { s with host := q }
      · exact .inl ⟨t, hstep.trans ht⟩
      · exact .inr ⟨a, q, hhost, (supported_eq_false_iff a).mp hsup⟩

/-- Settles O44: the layout of the word read, and a write goes to writeTag, which keeps DATA. -/
theorem tagAccess : Obligations.TagAccess := by
  intro s i
  refine ⟨(hostRead_tagOffset s i).trans (tagWord_eq_append (s.reg i)), fun q v hhost hreset => ?_⟩
  rw [step_writeAt hhost hreset (tagOffset_aligned i) (by simp), registerAt_tagOffset]
  rfl

end Sys2Proof.Machine
end

section
/-! PROOFS. The family of 30_encoding.md: the fields of a word (R91), decoding by mask and match (R94, R98) and by
fields (R95, R99), and what every command does with its result (R105). First words as fields, decoding, and the
three statements about them; then the results of the commands, and the statement about those. -/

namespace Sys2Proof

/-! ### A word and its fields (R91) -/

theorem word_eq_append_fields (w : Word) :
    w = (fieldRsv w ++ fieldLvl w ++ fieldRs2 w ++ fieldRs1 w ++ fieldRd w ++ fieldOpc w : BitVec 32) := by
  apply BitVec.eq_of_getLsbD_eq
  intro j hj
  simp only [fieldRsv, fieldLvl, fieldRs2, fieldRs1, fieldRd, fieldOpc, BitVec.getLsbD_append,
    BitVec.getLsbD_extractLsb']
  grind

theorem wordFields_inj {w v : Word} : wordFields w = wordFields v ↔ w = v := by
  refine ⟨fun h => ?_, fun h => h ▸ rfl⟩
  simp only [wordFields, CFields.mk.injEq] at h
  obtain ⟨hopc, hrd, hrs1, hrs2, hlvl, hrsv⟩ := h
  rw [word_eq_append_fields w, word_eq_append_fields v, hopc, hrd, hrs1, hrs2, hlvl, hrsv]

theorem wordFields_and (w v : Word) : wordFields (w &&& v) =
    ⟨fieldOpc w &&& fieldOpc v, fieldRd w &&& fieldRd v, fieldRs1 w &&& fieldRs1 v, fieldRs2 w &&& fieldRs2 v,
      fieldLvl w &&& fieldLvl v, fieldRsv w &&& fieldRsv v⟩ := by
  simp only [wordFields, fieldOpc, fieldRd, fieldRs1, fieldRs2, fieldLvl, fieldRsv, BitVec.extractLsb'_and]

theorem wordFields_ofNat {n : Nat} (hn : n < 16) :
    wordFields (BitVec.ofNat 32 n) = ⟨BitVec.ofNat 4 n, 0, 0, 0, 0, 0⟩ := by
  interval_cases n <;> rfl

/-! ### The rows of the mask and match table as conditions on the fields (R94) -/

/-- A mask that covers OPC, with a match below 16: the match is the opcode, and the other fields are 0 where the mask
covers them. -/
theorem and_eq_opcode_iff (w : Word) {mask : Word} {rd rs1 rs2 : BitVec 3} {lvl : BitVec 4} {rsv : BitVec 15}
    (hmask : wordFields mask = ⟨BitVec.allOnes 4, rd, rs1, rs2, lvl, rsv⟩) {n : Nat} (hn : n < 16) :
    w &&& mask = BitVec.ofNat 32 n ↔
      fieldOpc w = BitVec.ofNat 4 n ∧ fieldRd w &&& rd = 0 ∧ fieldRs1 w &&& rs1 = 0 ∧ fieldRs2 w &&& rs2 = 0 ∧
      fieldLvl w &&& lvl = 0 ∧ fieldRsv w &&& rsv = 0 := by
  simp only [wordFields, CFields.mk.injEq] at hmask
  obtain ⟨hopc, rfl, rfl, rfl, rfl, rfl⟩ := hmask
  simp only [← wordFields_inj, wordFields_and, wordFields_ofNat hn, CFields.mk.injEq, hopc, BitVec.and_allOnes]

/-- The rows of ADD, MUL, DIV and JOIN. -/
theorem threeRegisterRow_iff (w : Word) {n : Nat} (hn : n < 16) : w &&& 0xFFFFE00F#32 = BitVec.ofNat 32 n ↔
    fieldOpc w = BitVec.ofNat 4 n ∧ fieldLvl w = 0 ∧ fieldRsv w = 0 := by
  have hmask : wordFields 0xFFFFE00F#32 = ⟨.allOnes 4, 0, 0, 0, .allOnes 4, .allOnes 15⟩ := rfl
  simpa [-BitVec.reduceAllOnes] using and_eq_opcode_iff w hmask hn

/-- The rows of INV, HI and LO. -/
theorem twoRegisterRow_iff (w : Word) {n : Nat} (hn : n < 16) : w &&& 0xFFFFFC0F#32 = BitVec.ofNat 32 n ↔
    fieldOpc w = BitVec.ofNat 4 n ∧ fieldRs2 w = 0 ∧ fieldLvl w = 0 ∧ fieldRsv w = 0 := by
  have hmask : wordFields 0xFFFFFC0F#32 = ⟨.allOnes 4, 0, 0, .allOnes 3, .allOnes 4, .allOnes 15⟩ := rfl
  simpa [-BitVec.reduceAllOnes] using and_eq_opcode_iff w hmask hn

/-- The rows of ZERO and ONE. -/
theorem levelRow_iff (w : Word) {n : Nat} (hn : n < 16) : w &&& 0xFFFE1F8F#32 = BitVec.ofNat 32 n ↔
    fieldOpc w = BitVec.ofNat 4 n ∧ fieldRs1 w = 0 ∧ fieldRs2 w = 0 ∧ fieldRsv w = 0 := by
  have hmask : wordFields 0xFFFE1F8F#32 = ⟨.allOnes 4, 0, .allOnes 3, .allOnes 3, 0, .allOnes 15⟩ := rfl
  simpa [-BitVec.reduceAllOnes] using and_eq_opcode_iff w hmask hn

/-- A word that meets a row has the row's opcode. -/
theorem fieldOpc_of_row {r : DecodeRow} (hr : r ∈ decodeTable) {w : Word} (h : w &&& r.mask = r.pattern) :
    fieldOpc w = fieldOpc r.pattern := by
  have hmask : ∀ r ∈ decodeTable, fieldOpc r.mask = BitVec.allOnes 4 := by decide
  have hfields := congrArg CFields.opc (wordFields_and w r.mask)
  rw [h, hmask r hr, BitVec.and_allOnes] at hfields
  exact hfields.symm

theorem decode_error_iff_no_row (w : Word) :
    (∃ r, decode w = .error r) ↔ ∀ r ∈ decodeTable, w &&& r.mask ≠ r.pattern := by
  have hfind : (∃ r, decode w = .error r) ↔ decodeTable.find? (fun r => w &&& r.mask == r.pattern) = none := by
    unfold decode
    split <;> simp_all
  simp [hfind, List.find?_eq_none]

/-! ### Decoding by fields (R98, R99) -/

/-- The word of a command has the command's fields, and they form a legal word. -/
theorem encodingFields (i : Instr) : wordFields (encode i) = i.fields ∧ i.wellFormed = true := by
  cases i with
  | add rd rs1 rs2 => exact Laws.EncodingFields.add rd rs1 rs2
  | mul rd rs1 rs2 => exact Laws.EncodingFields.mul rd rs1 rs2
  | inv rd rs1 => exact Laws.EncodingFields.inv rd rs1
  | div rd rs1 rs2 => exact Laws.EncodingFields.div rd rs1 rs2
  | hi rd rs1 => exact Laws.EncodingFields.hi rd rs1
  | lo rd rs1 => exact Laws.EncodingFields.lo rd rs1
  | join rd rs1 rs2 => exact Laws.EncodingFields.join rd rs1 rs2
  | zero rd lvl => exact Laws.EncodingFields.zero rd lvl
  | one rd lvl => exact Laws.EncodingFields.one rd lvl

@[simp] theorem wordFields_encode (i : Instr) : wordFields (encode i) = i.fields := (encodingFields i).1

/-- The chain of mask and match tests, each test as a condition on the fields. -/
theorem decode_eq_by_fields (w : Word) : decode w =
    if fieldOpc w = 1 ∧ fieldLvl w = 0 ∧ fieldRsv w = 0 then .ok (operandsOf .add w)
    else if fieldOpc w = 2 ∧ fieldLvl w = 0 ∧ fieldRsv w = 0 then .ok (operandsOf .mul w)
    else if fieldOpc w = 3 ∧ fieldRs2 w = 0 ∧ fieldLvl w = 0 ∧ fieldRsv w = 0 then .ok (operandsOf .inv w)
    else if fieldOpc w = 4 ∧ fieldLvl w = 0 ∧ fieldRsv w = 0 then .ok (operandsOf .div w)
    else if fieldOpc w = 5 ∧ fieldRs2 w = 0 ∧ fieldLvl w = 0 ∧ fieldRsv w = 0 then .ok (operandsOf .hi w)
    else if fieldOpc w = 6 ∧ fieldRs2 w = 0 ∧ fieldLvl w = 0 ∧ fieldRsv w = 0 then .ok (operandsOf .lo w)
    else if fieldOpc w = 7 ∧ fieldLvl w = 0 ∧ fieldRsv w = 0 then .ok (operandsOf .join w)
    else if fieldOpc w = 8 ∧ fieldRs1 w = 0 ∧ fieldRs2 w = 0 ∧ fieldRsv w = 0 then .ok (operandsOf .zero w)
    else if fieldOpc w = 9 ∧ fieldRs1 w = 0 ∧ fieldRs2 w = 0 ∧ fieldRsv w = 0 then .ok (operandsOf .one w)
    else .error (rejectReason w) := by
  simp only [decode_eq, threeRegisterRow_iff w (show 1 < 16 by decide), threeRegisterRow_iff w (show 2 < 16 by decide),
    twoRegisterRow_iff w (show 3 < 16 by decide), threeRegisterRow_iff w (show 4 < 16 by decide),
    twoRegisterRow_iff w (show 5 < 16 by decide), twoRegisterRow_iff w (show 6 < 16 by decide),
    threeRegisterRow_iff w (show 7 < 16 by decide), levelRow_iff w (show 8 < 16 by decide),
    levelRow_iff w (show 9 < 16 by decide), BitVec.ofNat_eq_ofNat]

theorem row_of_decode {w : Word} {i : Instr} (h : decode w = .ok i) :
    ∃ r ∈ decodeTable, w &&& r.mask = r.pattern ∧ operandsOf r.mnemonic w = i := by
  unfold decode at h
  split at h
  · next r hfind =>
    exact ⟨r, List.mem_of_find?_eq_some hfind, by simpa using List.find?_some hfind, Except.ok.inj h⟩
  · cases h

/-- A word that meets a row has no field but those that the row's command takes as operands. -/
theorem wordFields_eq_of_row {r : DecodeRow} (hr : r ∈ decodeTable) {w : Word} (h : w &&& r.mask = r.pattern) :
    wordFields w = (operandsOf r.mnemonic w).fields := by
  simp only [decodeTable, List.mem_cons, List.not_mem_nil, or_false] at hr
  obtain rfl | rfl | rfl | rfl | rfl | rfl | rfl | rfl | rfl := hr
  · simp [wordFields, operandsOf, Instr.fields, (threeRegisterRow_iff w (n := 1) (by decide)).mp h]
  · simp [wordFields, operandsOf, Instr.fields, (threeRegisterRow_iff w (n := 2) (by decide)).mp h]
  · simp [wordFields, operandsOf, Instr.fields, (twoRegisterRow_iff w (n := 3) (by decide)).mp h]
  · simp [wordFields, operandsOf, Instr.fields, (threeRegisterRow_iff w (n := 4) (by decide)).mp h]
  · simp [wordFields, operandsOf, Instr.fields, (twoRegisterRow_iff w (n := 5) (by decide)).mp h]
  · simp [wordFields, operandsOf, Instr.fields, (twoRegisterRow_iff w (n := 6) (by decide)).mp h]
  · simp [wordFields, operandsOf, Instr.fields, (threeRegisterRow_iff w (n := 7) (by decide)).mp h]
  · simp [wordFields, operandsOf, Instr.fields, (levelRow_iff w (n := 8) (by decide)).mp h]
  · simp [wordFields, operandsOf, Instr.fields, (levelRow_iff w (n := 9) (by decide)).mp h]

/-- Decoding says which command has the fields of the word. -/
theorem decode_eq_ok_iff (w : Word) (i : Instr) : decode w = .ok i ↔ wordFields w = i.fields := by
  constructor
  · intro h
    obtain ⟨r, hr, hmet, rfl⟩ := row_of_decode h
    exact wordFields_eq_of_row hr hmet
  · intro h
    cases i <;>
      · simp only [wordFields, Instr.fields, CFields.mk.injEq] at h
        simp [decode_eq_by_fields, operandsOf, h]

/-- The fields of the commands are the legal ones. -/
theorem CFields.wellFormed_iff (f : CFields) : f.wellFormed = true ↔ ∃ i : Instr, f = i.fields := by
  refine ⟨fun h => ?_, fun ⟨i, hi⟩ => hi ▸ (encodingFields i).2⟩
  obtain ⟨opc, rd, rs1, rs2, lvl, rsv⟩ := f
  simp only [CFields.wellFormed, CFields.opcodeAssigned, Bool.and_eq_true, decide_eq_true_eq] at h
  obtain ⟨⟨⟨⟨hassigned, hrsv⟩, hrs1⟩, hrs2⟩, hlvl⟩ := h
  have hopc : opc = 1 ∨ opc = 2 ∨ opc = 3 ∨ opc = 4 ∨ opc = 5 ∨ opc = 6 ∨ opc = 7 ∨ opc = 8 ∨ opc = 9 := by bv_omega
  simp only [CFields.usesRs1, CFields.usesRs2, CFields.usesLvl] at hrs1 hrs2 hlvl
  obtain rfl | rfl | rfl | rfl | rfl | rfl | rfl | rfl | rfl := hopc
  · exact ⟨.add rd.toFin rs1.toFin rs2.toFin, by simp_all [Instr.fields]⟩
  · exact ⟨.mul rd.toFin rs1.toFin rs2.toFin, by simp_all [Instr.fields]⟩
  · exact ⟨.inv rd.toFin rs1.toFin, by simp_all [Instr.fields]⟩
  · exact ⟨.div rd.toFin rs1.toFin rs2.toFin, by simp_all [Instr.fields]⟩
  · exact ⟨.hi rd.toFin rs1.toFin, by simp_all [Instr.fields]⟩
  · exact ⟨.lo rd.toFin rs1.toFin, by simp_all [Instr.fields]⟩
  · exact ⟨.join rd.toFin rs1.toFin rs2.toFin, by simp_all [Instr.fields]⟩
  · exact ⟨.zero rd.toFin lvl.toFin, by simp_all [Instr.fields]⟩
  · exact ⟨.one rd.toFin lvl.toFin, by simp_all [Instr.fields]⟩

theorem exists_decode_error_iff (w : Word) : (∃ r, decode w = .error r) ↔ ¬ ∃ i, decode w = .ok i := by
  cases decode w <;> simp

/-- A word is illegal exactly when its fields are no legal ones. -/
theorem decode_error_iff_not_wellFormed (w : Word) :
    (∃ r, decode w = .error r) ↔ (wordFields w).wellFormed = false := by
  simp only [exists_decode_error_iff, decode_eq_ok_iff, ← CFields.wellFormed_iff, Bool.not_eq_true]

/-- The grounds of R95. -/
theorem CFields.wellFormed_eq_false_iff (f : CFields) : f.wellFormed = false ↔
    f.opc = 0 ∨ 0xA ≤ f.opc.toNat ∨ f.rsv ≠ 0 ∨ (f.usesRs1 = false ∧ f.rs1 ≠ 0) ∨
      (f.usesRs2 = false ∧ f.rs2 ≠ 0) ∨ (f.usesLvl = false ∧ f.lvl ≠ 0) := by
  have hassigned : f.opcodeAssigned = false ↔ f.opc = 0 ∨ 0xA ≤ f.opc.toNat := by
    simp only [CFields.opcodeAssigned, Bool.and_eq_false_iff, decide_eq_false_iff_not]
    bv_omega
  simp only [CFields.wellFormed, Bool.and_eq_false_iff, Bool.or_eq_false_iff, hassigned, beq_eq_false_iff_ne, or_assoc]

/-! ### The commands of one operand form (R94, R99) -/

theorem threeRegisterFields_iff (w : Word) {n : Nat} (hn : n < 16) :
    (∃ rd rs1 rs2 : RegIdx, wordFields w = ⟨BitVec.ofNat 4 n, .ofFin rd, .ofFin rs1, .ofFin rs2, 0, 0⟩) ↔
      w &&& 0xFFFFE00F#32 = BitVec.ofNat 32 n := by
  rw [threeRegisterRow_iff w hn]
  constructor
  · rintro ⟨rd, rs1, rs2, h⟩
    simp_all [wordFields]
  · rintro ⟨hopc, hlvl, hrsv⟩
    exact ⟨(fieldRd w).toFin, (fieldRs1 w).toFin, (fieldRs2 w).toFin, by simp [wordFields, hopc, hlvl, hrsv]⟩

theorem twoRegisterFields_iff (w : Word) {n : Nat} (hn : n < 16) :
    (∃ rd rs1 : RegIdx, wordFields w = ⟨BitVec.ofNat 4 n, .ofFin rd, .ofFin rs1, 0, 0, 0⟩) ↔
      w &&& 0xFFFFFC0F#32 = BitVec.ofNat 32 n := by
  rw [twoRegisterRow_iff w hn]
  constructor
  · rintro ⟨rd, rs1, h⟩
    simp_all [wordFields]
  · rintro ⟨hopc, hrs2, hlvl, hrsv⟩
    exact ⟨(fieldRd w).toFin, (fieldRs1 w).toFin, by simp [wordFields, hopc, hrs2, hlvl, hrsv]⟩

theorem levelFields_iff (w : Word) {n : Nat} (hn : n < 16) :
    (∃ (rd : RegIdx) (lvl : LevelImm), wordFields w = ⟨BitVec.ofNat 4 n, .ofFin rd, 0, 0, .ofFin lvl, 0⟩) ↔
      w &&& 0xFFFE1F8F#32 = BitVec.ofNat 32 n := by
  rw [levelRow_iff w hn]
  constructor
  · rintro ⟨rd, lvl, h⟩
    simp_all [wordFields]
  · rintro ⟨hopc, hrs1, hrs2, hrsv⟩
    exact ⟨(fieldRd w).toFin, (fieldLvl w).toFin, by simp [wordFields, hopc, hrs1, hrs2, hrsv]⟩

theorem cWord_eq_shiftedFields (lvl : LevelImm) (rs2 rs1 rd : RegIdx) (opc : BitVec 4) :
    cWord lvl rs2 rs1 rd (opc.setWidth 32) =
      ((BitVec.ofFin lvl : BitVec 4).setWidth 32 <<< 13) ||| ((BitVec.ofFin rs2 : BitVec 3).setWidth 32 <<< 10) |||
        ((BitVec.ofFin rs1 : BitVec 3).setWidth 32 <<< 7) ||| ((BitVec.ofFin rd : BitVec 3).setWidth 32 <<< 4) |||
        opc.setWidth 32 := by
  simp only [cWord, ← BitVec.ofNat_toNat, BitVec.toNat_ofFin]

/-- The layout of R99. -/
theorem encode_eq_shiftedFields (i : Instr) : encode i =
    (i.fields.lvl.setWidth 32 <<< 13) ||| (i.fields.rs2.setWidth 32 <<< 10) |||
      (i.fields.rs1.setWidth 32 <<< 7) ||| (i.fields.rd.setWidth 32 <<< 4) ||| i.fields.opc.setWidth 32 := by
  cases i with
  | add rd rs1 rs2 => exact cWord_eq_shiftedFields 0 rs2 rs1 rd 1
  | mul rd rs1 rs2 => exact cWord_eq_shiftedFields 0 rs2 rs1 rd 2
  | inv rd rs1 => exact cWord_eq_shiftedFields 0 0 rs1 rd 3
  | div rd rs1 rs2 => exact cWord_eq_shiftedFields 0 rs2 rs1 rd 4
  | hi rd rs1 => exact cWord_eq_shiftedFields 0 0 rs1 rd 5
  | lo rd rs1 => exact cWord_eq_shiftedFields 0 0 rs1 rd 6
  | join rd rs1 rs2 => exact cWord_eq_shiftedFields 0 rs2 rs1 rd 7
  | zero rd lvl => exact cWord_eq_shiftedFields lvl 0 0 rd 8
  | one rd lvl => exact cWord_eq_shiftedFields lvl 0 0 rd 9

theorem decode_encode (i : Instr) : decode (encode i) = .ok i := by
  rw [decode_eq_ok_iff, wordFields_encode]

theorem encode_of_decode {w : Word} {i : Instr} (h : decode w = .ok i) : encode i = w := by
  rw [decode_eq_ok_iff] at h
  rw [← wordFields_inj, wordFields_encode, h]

/-! ### The statements on the encoding -/

/-- Settles O1: both directions say that the word has the command's fields, and a word is determined by its fields. -/
theorem decodeInvertsEncode : Obligations.DecodeInvertsEncode :=
  ⟨encode_eq_shiftedFields, decode_encode, fun _ _ h => encode_of_decode h⟩

/-- Settles O2: each row is a condition on the fields, and decoding asks for the fields of a command; two rows that are
both met would have one opcode. -/
theorem decodeSelectsByMaskAndMatch : Obligations.DecodeSelectsByMaskAndMatch := by
  refine ⟨fun w => ?_, ?_⟩
  · simp only [decode_eq_ok_iff]
    exact ⟨threeRegisterFields_iff w (n := 1) (by decide), threeRegisterFields_iff w (n := 2) (by decide),
      twoRegisterFields_iff w (n := 3) (by decide), threeRegisterFields_iff w (n := 4) (by decide),
      twoRegisterFields_iff w (n := 5) (by decide), twoRegisterFields_iff w (n := 6) (by decide),
      threeRegisterFields_iff w (n := 7) (by decide), levelFields_iff w (n := 8) (by decide),
      levelFields_iff w (n := 9) (by decide), by simpa [decodeTable] using decode_error_iff_no_row w⟩
  · have hopcodes : decodeTable.Pairwise (fun a b => fieldOpc a.pattern ≠ fieldOpc b.pattern) := by decide
    exact hopcodes.imp_of_mem fun ha hb hne w ⟨hwa, hwb⟩ =>
      hne ((fieldOpc_of_row ha hwa).symm.trans (fieldOpc_of_row hb hwb))

/-- Settles O3: the illegal words are those whose fields are not well formed. -/
theorem illegalWords : Obligations.IllegalWords := by
  intro w
  refine ⟨(decode_error_iff_not_wellFormed w).trans (CFields.wellFormed_eq_false_iff _), fun s r h => ?_, ?_, ?_⟩
  · simp only [Machine.executeWord, h]
    rfl
  · exact (decode_error_iff_not_wellFormed _).mpr (by decide)
  · exact (decode_error_iff_not_wellFormed _).mpr (by decide)

end Sys2Proof

namespace Sys2Proof.Machine

/-! ### What the result of a command can be (R105, R210, R216) -/

/-- The result of a command, before it is written or recorded. -/
def commandResult (s : State) : Instr → Except ErrorCode TowerElement
  | .add _ rs1 rs2 => addResult s rs1 rs2
  | .mul _ rs1 rs2 => mulResult s rs1 rs2
  | .inv _ rs1 => invResult s rs1
  | .div _ rs1 rs2 => divResult s rs1 rs2
  | .hi _ rs1 => hiResult s rs1
  | .lo _ rs1 => loResult s rs1
  | .join _ rs1 rs2 => joinResult s rs1 rs2
  | .zero _ lvl => zeroResult s lvl
  | .one _ lvl => oneResult s lvl

theorem exec_eq_finishCommand_commandResult (i : Instr) (s : State) :
    exec i s = finishCommand i (encode i) s (commandResult s i) := by
  cases i <;> rfl

/-- A value with the property, or one of the errors 1 to 4: ILLEGAL_COMMAND is no error of a decoded command. -/
def Answers {α : Type} (P : α → Prop) : Except ErrorCode α → Prop
  | .ok a => P a
  | .error c => c ≠ .illegalCommand

@[simp] theorem answers_ok {α : Type} (P : α → Prop) (a : α) : Answers P (.ok a) ↔ P a := Iff.rfl

@[simp] theorem answers_error {α : Type} (P : α → Prop) (c : ErrorCode) :
    Answers P (.error c : Except ErrorCode α) ↔ c ≠ .illegalCommand := Iff.rfl

theorem Answers.ok_or_error {α : Type} {P : α → Prop} {r : Except ErrorCode α} (h : Answers P r) :
    (∃ a, r = .ok a ∧ P a) ∨ (∃ c, r = .error c ∧ c ≠ .illegalCommand) := by
  cases r with
  | ok a => exact .inl ⟨a, rfl, h⟩
  | error c => exact .inr ⟨c, rfl, h⟩

/-- An error of inv_k is the base field's (R172, R192). -/
theorem invElem_error {p : Params} {k : Nat} {a : BitVec (2 ^ k)} {c : ErrorCode} (h : invElem p k a = .error c) :
    c = .divByZero := by
  induction k with
  | zero =>
    simp only [invElem_level_zero, bfInv] at h
    split at h <;> cases h
    rfl
  | succ k ih =>
    cases hn : invElem p k (normElem p k a) with
    | error d =>
      rw [invElem_level_succ_error hn] at h
      cases h
      exact ih hn
    | ok n => rw [invElem_level_succ_ok hn] at h; cases h

/-- An error of div_k is one of inv_k (R200). -/
theorem divElem_error {p : Params} {k : Nat} {a b : BitVec (2 ^ k)} {c : ErrorCode}
    (h : divElem p k a b = .error c) : c = .divByZero := by
  unfold divElem at h
  split at h <;> cases h
  next hinv => exact invElem_error hinv

/-- Both halves lie one level below (R121). -/
theorem splitElem_answers (a : TowerElement) :
    Answers (fun hl => hl.1.level < a.level ∧ hl.2.level < a.level) (splitElem a) := by
  cases hlevel : a.level with
  | zero => simp [splitElem_level_zero hlevel]
  | succ k => simp [splitElem_level_succ hlevel]

section
variable (s : State)

/-- The configuration supports the element's level (R7). -/
abbrev Supported (a : TowerElement) : Prop := a.level ≤ s.params.maxLevel.val

theorem readSource_answers (i : RegIdx) : Answers (Supported s) (readSource s i) := by
  obtain ⟨-, h⟩ | ⟨-, -, h⟩ | ⟨-, hlevel, h⟩ := readSource_cases s i
  · simp [h]
  · simp [h]
  · simpa only [h, answers_ok] using hlevel

theorem readSources_answers (i j : RegIdx) :
    Answers (fun ab => Supported s ab.1 ∧ Supported s ab.2) (readSources s i j) := by
  obtain ⟨a, hi, ha⟩ | ⟨c, hi, hc⟩ := (readSource_answers s i).ok_or_error
  · obtain ⟨b, hj, hb⟩ | ⟨c, hj, hc⟩ := (readSource_answers s j).ok_or_error
    · simp [readSources, hi, hj, ha, hb]
    · simpa [readSources, hi, hj] using hc
  · simpa [readSources, hi] using hc

theorem readFieldSources_answers (i j : RegIdx) :
    Answers (fun ab => Supported s ab.1 ∧ Supported s ab.2) (readFieldSources s i j) := by
  obtain ⟨⟨a, b⟩, hr, hab⟩ | ⟨c, hr, hc⟩ := (readSources_answers s i j).ok_or_error
  · by_cases hlevel : a.level = b.level
    · simpa [readFieldSources, hr, hlevel] using hab
    · simp [readFieldSources, hr, hlevel]
  · simpa [readFieldSources, hr] using hc

theorem addResult_answers (rs1 rs2 : RegIdx) : Answers (Supported s) (addResult s rs1 rs2) := by
  obtain ⟨⟨a, b⟩, hr, ha, -⟩ | ⟨c, hr, hc⟩ := (readFieldSources_answers s rs1 rs2).ok_or_error
  · simpa [addResult, hr] using ha
  · simpa [addResult, hr] using hc

theorem mulResult_answers (rs1 rs2 : RegIdx) : Answers (Supported s) (mulResult s rs1 rs2) := by
  obtain ⟨⟨a, b⟩, hr, ha, -⟩ | ⟨c, hr, hc⟩ := (readFieldSources_answers s rs1 rs2).ok_or_error
  · simpa [mulResult, hr] using ha
  · simpa [mulResult, hr] using hc

theorem divResult_answers (rs1 rs2 : RegIdx) : Answers (Supported s) (divResult s rs1 rs2) := by
  obtain ⟨⟨a, b⟩, hr, ha, -⟩ | ⟨c, hr, hc⟩ := (readFieldSources_answers s rs1 rs2).ok_or_error
  · cases hdiv : divElem s.params a.level a.bits (b.bitsAt a.level) with
    | ok r => simpa [divResult, hr, hdiv] using ha
    | error c => simp [divResult, hr, hdiv, divElem_error hdiv]
  · simpa [divResult, hr] using hc

theorem invResult_answers (rs1 : RegIdx) : Answers (Supported s) (invResult s rs1) := by
  obtain ⟨a, hr, ha⟩ | ⟨c, hr, hc⟩ := (readSource_answers s rs1).ok_or_error
  · cases hinv : invElem s.params a.level a.bits with
    | ok r => simpa [invResult, hr, hinv] using ha
    | error c => simp [invResult, hr, hinv, invElem_error hinv]
  · simpa [invResult, hr] using hc

theorem splitSource_answers (rs1 : RegIdx) :
    Answers (fun hl => Supported s hl.1 ∧ Supported s hl.2) (splitSource s rs1) := by
  obtain ⟨a, hr, ha⟩ | ⟨c, hr, hc⟩ := (readSource_answers s rs1).ok_or_error
  · obtain ⟨hl, hsplit, hhi, hlo⟩ | ⟨c, hsplit, hc⟩ := (splitElem_answers a).ok_or_error
    · simpa [splitSource, hr, hsplit] using And.intro (hhi.le.trans ha) (hlo.le.trans ha)
    · simpa [splitSource, hr, hsplit] using hc
  · simpa [splitSource, hr] using hc

theorem hiResult_answers (rs1 : RegIdx) : Answers (Supported s) (hiResult s rs1) := by
  obtain ⟨⟨h, l⟩, hr, hhi, -⟩ | ⟨c, hr, hc⟩ := (splitSource_answers s rs1).ok_or_error
  · simpa [hiResult, hr] using hhi
  · simpa [hiResult, hr] using hc

theorem loResult_answers (rs1 : RegIdx) : Answers (Supported s) (loResult s rs1) := by
  obtain ⟨⟨h, l⟩, hr, -, hlo⟩ | ⟨c, hr, hc⟩ := (splitSource_answers s rs1).ok_or_error
  · simpa [loResult, hr] using hlo
  · simpa [loResult, hr] using hc

theorem joinResult_answers (rs1 rs2 : RegIdx) : Answers (Supported s) (joinResult s rs1 rs2) := by
  obtain ⟨⟨h, l⟩, hr, -⟩ | ⟨c, hr, hc⟩ := (readSources_answers s rs1 rs2).ok_or_error
  · simp only [joinResult, hr]
    split_ifs with hne hdeep
    · simp
    · simp
    · exact Nat.not_lt.mp hdeep
  · simpa [joinResult, hr] using hc

theorem zeroResult_answers (lvl : LevelImm) : Answers (Supported s) (zeroResult s lvl) := by
  obtain ⟨hlevel, h⟩ | ⟨-, h⟩ := readLevel_cases s lvl
  · simpa [zeroResult, h] using hlevel
  · simp [zeroResult, h]

theorem oneResult_answers (lvl : LevelImm) : Answers (Supported s) (oneResult s lvl) := by
  obtain ⟨hlevel, h⟩ | ⟨-, h⟩ := readLevel_cases s lvl
  · simpa [oneResult, h] using hlevel
  · simp [oneResult, h]

theorem commandResult_answers (i : Instr) : Answers (Supported s) (commandResult s i) := by
  cases i with
  | add _ rs1 rs2 => exact addResult_answers s rs1 rs2
  | mul _ rs1 rs2 => exact mulResult_answers s rs1 rs2
  | inv _ rs1 => exact invResult_answers s rs1
  | div _ rs1 rs2 => exact divResult_answers s rs1 rs2
  | hi _ rs1 => exact hiResult_answers s rs1
  | lo _ rs1 => exact loResult_answers s rs1
  | join _ rs1 rs2 => exact joinResult_answers s rs1 rs2
  | zero _ lvl => exact zeroResult_answers s lvl
  | one _ lvl => exact oneResult_answers s lvl

end

theorem errorCodeBits_le_four {c : ErrorCode} (h : c ≠ .illegalCommand) :
    1 ≤ (errorCodeBits c).toNat ∧ (errorCodeBits c).toNat ≤ 4 := by
  cases c with
  | illegalCommand => exact absurd rfl h
  | shape | levelMismatch | divByZero | emptyOperand => decide

/-- Settles O31: a command's result is an element of a supported level or an error other than ILLEGAL_COMMAND, and
finishCommand writes the one or records the other. -/
theorem commandsWriteDestinationOrRecord : Obligations.CommandsWriteDestinationOrRecord := by
  intro i s
  rw [exec_eq_finishCommand_commandResult]
  obtain ⟨a, hr, hlevel⟩ | ⟨c, hr, hc⟩ := (commandResult_answers s i).ok_or_error <;> rw [hr]
  · exact .inl ⟨a.level, a.bits, hlevel, rfl⟩
  · obtain ⟨hlow, hhigh⟩ := errorCodeBits_le_four hc
    exact .inr ⟨errorCodeBits c, hlow, hhigh, rfl⟩

end Sys2Proof.Machine
end

section
/-! PROOFS. The family of 40_bitvector.md: HI, LO, JOIN, ZERO and ONE (R126 to R130). First the rules that hold for
every command: how a word with its opcode executes, what its result and its source errors do to the state. Then the
results of the five commands, as the operands and the halves determine them; last the five statements. -/

namespace Sys2Proof.Machine

/-! ### A word with the opcode of a command (R94, R95) -/

/-- A word that decodes to a command where it is legal, and to nothing elsewhere, executes so. -/
theorem executesAs_of_decode {w : Word} {legal : Prop} [Decidable legal] {i : Instr} {r : DecodeReject}
    (h : decode w = if legal then .ok i else .error r) (s : State) : ExecutesAs s w legal i := by
  unfold ExecutesAs executeWord
  rw [h]
  split_ifs <;> rfl

/-! ### Reading two sources (R103, R216) -/

section
variable {s : State} {rs1 rs2 : RegIdx}

theorem readSources_first_error {c : ErrorCode} (h : readSource s rs1 = .error c) :
    readSources s rs1 rs2 = .error c := by
  simp only [readSources, h]

theorem readSources_second_error {a : TowerElement} {c : ErrorCode}
    (h1 : readSource s rs1 = .ok a) (h2 : readSource s rs2 = .error c) : readSources s rs1 rs2 = .error c := by
  simp only [readSources, h1, h2]

theorem readSources_ready (h1 : s.Ready rs1) (h2 : s.Ready rs2) :
    readSources s rs1 rs2 = .ok (⟨s.levelOf rs1, s.elemAt rs1 (s.levelOf rs1)⟩,
      ⟨s.levelOf rs2, s.elemAt rs2 (s.levelOf rs2)⟩) := by
  simp only [readSources, readSource_ready h1.1 h1.2, readSource_ready h2.1 h2.2]

end

/-! ### What a command's result and its source errors do (R103, R105, R213, R216) -/

section
variable {s : State}

theorem exec_of_result (i : Instr) {a : TowerElement} (h : commandResult s i = .ok a) :
    exec i s = .next (s.holding i.dest a.level a.bits) := by
  rw [exec_eq_finishCommand_commandResult, h]
  rfl

theorem exec_of_error (i : Instr) {c : ErrorCode} (h : commandResult s i = .error c) :
    exec i s = .next (s.recording (errorCodeBits c) (encode i)) := by
  rw [exec_eq_finishCommand_commandResult, h]
  rfl

/-- A command that hands on the errors of its source has them in the order of R216. -/
theorem oneSourceErrors_of_readSource {i : Instr} {rs1 : RegIdx}
    (h : ∀ c, readSource s rs1 = .error c → commandResult s i = .error c) : OneSourceErrors s i rs1 :=
  ⟨fun hempty => exec_of_error i (h _ (readSource_empty hempty)),
    fun ⟨hvalid, hdeep⟩ => exec_of_error i (h _ (readSource_tooDeep hvalid hdeep))⟩

/-- A command that hands on the errors of reading its two sources has all of RS1's before RS2's. -/
theorem twoSourceErrors_of_readSources {i : Instr} {rs1 rs2 : RegIdx}
    (h : ∀ c, readSources s rs1 rs2 = .error c → commandResult s i = .error c) : TwoSourceErrors s i rs1 rs2 :=
  ⟨oneSourceErrors_of_readSource fun c hc => h c (readSources_first_error hc),
    fun ⟨hvalid, hlevel⟩ hempty => exec_of_error i (h _ (readSources_second_error (readSource_ready hvalid hlevel)
      (readSource_empty hempty))),
    fun ⟨hvalid, hlevel⟩ ⟨hvalid2, hdeep⟩ => exec_of_error i (h _ (readSources_second_error
      (readSource_ready hvalid hlevel) (readSource_tooDeep hvalid2 hdeep)))⟩

end

/-! ### The halves of a source, and HI and LO (R121, R126, R127) -/

theorem hiHalf_setWidth (k : Nat) (d : Data) :
    hiHalf k (d.setWidth (2 ^ (k + 1))) = d.extractLsb' (2 ^ k) (2 ^ k) := by
  refine BitVec.eq_of_getLsbD_eq fun j hj => ?_
  have hin : 2 ^ k + j < 2 ^ (k + 1) := by omega
  simp only [getLsbD_hiHalf, BitVec.getLsbD_setWidth, BitVec.getLsbD_extractLsb', hj, hin, decide_true, Bool.true_and]

theorem loHalf_setWidth (k : Nat) (d : Data) :
    loHalf k (d.setWidth (2 ^ (k + 1))) = d.extractLsb' 0 (2 ^ k) := by
  refine BitVec.eq_of_getLsbD_eq fun j hj => ?_
  have hin : j < 2 ^ (k + 1) := by omega
  simp only [getLsbD_loHalf, BitVec.getLsbD_setWidth, BitVec.getLsbD_extractLsb', hj, hin, decide_true,
    Bool.true_and, Nat.zero_add]

section
variable {s : State} {rs1 : RegIdx}

theorem splitSource_error {c : ErrorCode} (h : readSource s rs1 = .error c) : splitSource s rs1 = .error c := by
  simp only [splitSource, h]

theorem splitSource_level_zero (hready : s.Ready rs1) (hlevel : s.levelOf rs1 = 0) :
    splitSource s rs1 = .error .shape := by
  simp only [splitSource, readSource_ready hready.1 hready.2]
  exact splitElem_level_zero hlevel

theorem splitSource_level_succ {k : Nat} (hready : s.Ready rs1) (hlevel : s.levelOf rs1 = k + 1) :
    splitSource s rs1 = .ok (⟨k, (s.reg rs1).data.extractLsb' (2 ^ k) (2 ^ k)⟩,
      ⟨k, (s.reg rs1).data.extractLsb' 0 (2 ^ k)⟩) := by
  simp only [splitSource, readSource_ready hready.1 hready.2]
  rw [splitElem_level_succ hlevel, bitsAt_setWidth _ hlevel.symm, hiHalf_setWidth, loHalf_setWidth]

theorem hiResult_error {c : ErrorCode} (h : splitSource s rs1 = .error c) : hiResult s rs1 = .error c := by
  simp only [hiResult, h]

theorem hiResult_ok {hi lo : TowerElement} (h : splitSource s rs1 = .ok (hi, lo)) : hiResult s rs1 = .ok hi := by
  simp only [hiResult, h]

theorem loResult_error {c : ErrorCode} (h : splitSource s rs1 = .error c) : loResult s rs1 = .error c := by
  simp only [loResult, h]

theorem loResult_ok {hi lo : TowerElement} (h : splitSource s rs1 = .ok (hi, lo)) : loResult s rs1 = .ok lo := by
  simp only [loResult, h]

end

/-! ### The join of two sources (R122, R128) -/

section
variable {s : State} {rs1 rs2 : RegIdx}

theorem joinResult_error {c : ErrorCode} (h : readSources s rs1 rs2 = .error c) :
    joinResult s rs1 rs2 = .error c := by
  simp only [joinResult, h]

theorem joinResult_level_ne (h1 : s.Ready rs1) (h2 : s.Ready rs2) (hne : s.levelOf rs1 ≠ s.levelOf rs2) :
    joinResult s rs1 rs2 = .error .shape := by
  simp only [joinResult, readSources_ready h1 h2]
  rw [if_pos hne]

theorem joinResult_tooDeep (h1 : s.Ready rs1) (h2 : s.Ready rs2) (heq : s.levelOf rs1 = s.levelOf rs2)
    (hdeep : s.params.maxLevel.val < s.levelOf rs1 + 1) : joinResult s rs1 rs2 = .error .shape := by
  simp only [joinResult, readSources_ready h1 h2]
  rw [if_neg (not_not_intro heq), if_pos hdeep]

theorem joinResult_ok (h1 : s.Ready rs1) (h2 : s.Ready rs2) (heq : s.levelOf rs1 = s.levelOf rs2)
    (hlevel : s.levelOf rs1 + 1 ≤ s.params.maxLevel.val) :
    joinResult s rs1 rs2 = .ok ⟨s.levelOf rs1 + 1,
      joinHalves (s.levelOf rs1) (s.elemAt rs1 (s.levelOf rs1)) (s.elemAt rs2 (s.levelOf rs1))⟩ := by
  simp only [joinResult, readSources_ready h1 h2]
  rw [if_neg (not_not_intro heq), if_neg (Nat.not_lt.mpr hlevel), bitsAt_setWidth _ heq]

end

/-- The bits of a join of two registers' elements: RS2's below, RS1's above. -/
theorem getLsbD_joinHalves_setWidth {k j : Nat} (hi lo : Data) (hj : j < 2 ^ k) :
    (joinHalves k (hi.setWidth (2 ^ k)) (lo.setWidth (2 ^ k))).getLsbD j = lo.getLsbD j ∧
      (joinHalves k (hi.setWidth (2 ^ k)) (lo.setWidth (2 ^ k))).getLsbD (2 ^ k + j) = hi.getLsbD j := by
  simp [getLsbD_joinHalves, hj]

/-! ### The constants zero and one (R123, R124, R129, R130) -/

theorem joinHalves_zero_one (k : Nat) : joinHalves k 0 1 = 1 := by
  refine BitVec.eq_of_getLsbD_eq fun j _ => ?_
  have hpos : 0 < 2 ^ k := Nat.two_pow_pos k
  by_cases hlow : j < 2 ^ k
  · simp [getLsbD_joinHalves, hlow, BitVec.getLsbD_one]
  · have hne : j ≠ 0 := by omega
    simp [getLsbD_joinHalves, hlow, BitVec.getLsbD_one, hne]

/-- The recursion of R124 yields the element whose bit 0 alone is set. -/
theorem oneElem_eq_one (k : Nat) : oneElem k = 1 := by
  induction k with
  | zero => rfl
  | succ k ih => rw [oneElem, ih, zeroElem, joinHalves_zero_one]

section
variable {s : State} {lvl : LevelImm}

theorem readLevel_ok (h : lvl.val ≤ s.params.maxLevel.val) : readLevel s lvl = .ok lvl.val :=
  if_neg (Nat.not_lt.mpr h)

theorem readLevel_tooDeep (h : s.params.maxLevel.val < lvl.val) : readLevel s lvl = .error .shape :=
  if_pos h

theorem zeroResult_ok (h : lvl.val ≤ s.params.maxLevel.val) : zeroResult s lvl = .ok ⟨lvl.val, 0⟩ := by
  simp only [zeroResult, readLevel_ok h, zeroElem]

theorem zeroResult_tooDeep (h : s.params.maxLevel.val < lvl.val) : zeroResult s lvl = .error .shape := by
  simp only [zeroResult, readLevel_tooDeep h]

theorem oneResult_ok (h : lvl.val ≤ s.params.maxLevel.val) : oneResult s lvl = .ok ⟨lvl.val, 1⟩ := by
  simp only [oneResult, readLevel_ok h, oneElem_eq_one]

theorem oneResult_tooDeep (h : s.params.maxLevel.val < lvl.val) : oneResult s lvl = .error .shape := by
  simp only [oneResult, readLevel_tooDeep h]

end

/-! ### The statements on the bit vector commands -/

/-- Settles O26: HI's result is the upper half that splitting its source yields, or the error of that split. -/
theorem hiCommand : Obligations.HiCommand := by
  refine fun s => ⟨fun w hopc => executesAs_of_decode (r := rejectReason w) ?_ s, fun rd rs1 => ⟨?_, ?_, ?_⟩⟩
  · simp [decode_eq_by_fields, hopc, operandsOf]
  · exact fun k hready hlevel => exec_of_result (.hi rd rs1) (hiResult_ok (splitSource_level_succ hready hlevel))
  · exact oneSourceErrors_of_readSource fun c hc => hiResult_error (splitSource_error hc)
  · exact fun hready hlevel => exec_of_error (.hi rd rs1) (hiResult_error (splitSource_level_zero hready hlevel))

/-- Settles O27: LO's result is the lower half that splitting its source yields, or the error of that split. -/
theorem loCommand : Obligations.LoCommand := by
  refine fun s => ⟨fun w hopc => executesAs_of_decode (r := rejectReason w) ?_ s, fun rd rs1 => ⟨?_, ?_, ?_⟩⟩
  · simp [decode_eq_by_fields, hopc, operandsOf]
  · exact fun k hready hlevel => exec_of_result (.lo rd rs1) (loResult_ok (splitSource_level_succ hready hlevel))
  · exact oneSourceErrors_of_readSource fun c hc => loResult_error (splitSource_error hc)
  · exact fun hready hlevel => exec_of_error (.lo rd rs1) (loResult_error (splitSource_level_zero hready hlevel))

/-- Settles O28: the element whose bits the statement gives is the join of the two sources' own bits. -/
theorem joinCommand : Obligations.JoinCommand := by
  refine fun s => ⟨fun w hopc => executesAs_of_decode (r := rejectReason w) ?_ s, fun rd rs1 rs2 =>
    ⟨?_, ?_, ?_, ?_⟩⟩
  · simp [decode_eq_by_fields, hopc, operandsOf]
  · exact fun h1 h2 heq hlevel =>
      ⟨_, fun _ hj => getLsbD_joinHalves_setWidth _ _ hj,
        exec_of_result (.join rd rs1 rs2) (joinResult_ok h1 h2 heq hlevel)⟩
  · exact twoSourceErrors_of_readSources fun c hc => joinResult_error hc
  · exact fun h1 h2 hne => exec_of_error (.join rd rs1 rs2) (joinResult_level_ne h1 h2 hne)
  · exact fun h1 h2 heq hdeep => exec_of_error (.join rd rs1 rs2) (joinResult_tooDeep h1 h2 heq hdeep)

/-- Settles O29: ZERO reads its level alone, so no state of the registers matters. -/
theorem zeroCommand : Obligations.ZeroCommand := by
  refine fun s => ⟨fun w hopc => executesAs_of_decode (r := rejectReason w) ?_ s, fun rd lvl => ⟨?_, ?_⟩⟩
  · simp [decode_eq_by_fields, hopc, operandsOf]
  · exact fun hlevel => exec_of_result (.zero rd lvl) (zeroResult_ok hlevel)
  · exact fun hdeep => exec_of_error (.zero rd lvl) (zeroResult_tooDeep hdeep)

/-- Settles O30: ONE is ZERO with the one element, which R124's recursion builds as the number 1. -/
theorem oneCommand : Obligations.OneCommand := by
  refine fun s => ⟨fun w hopc => executesAs_of_decode (r := rejectReason w) ?_ s, fun rd lvl => ⟨?_, ?_⟩⟩
  · simp [decode_eq_by_fields, hopc, operandsOf]
  · exact fun hlevel => exec_of_result (.one rd lvl) (oneResult_ok hlevel)
  · exact fun hdeep => exec_of_error (.one rd lvl) (oneResult_tooDeep hdeep)

end Sys2Proof.Machine
end

section
/-! PROOFS. The family of 41_add.md: the laws of addition (R142) and ADD (R141). First the laws; then reading the two
sources of a field operation, which MUL and DIV share, and the result of ADD; last the two statements. -/

namespace Sys2Proof.Machine

/-! ### The laws of addition (R142) -/

theorem addElem_comm (k : Nat) (a b : BitVec (2 ^ k)) : addElem k a b = addElem k b a :=
  BitVec.xor_comm a b

theorem addElem_assoc (k : Nat) (a b c : BitVec (2 ^ k)) :
    addElem k (addElem k a b) c = addElem k a (addElem k b c) :=
  BitVec.xor_assoc a b c

theorem addElem_self (k : Nat) (a : BitVec (2 ^ k)) : addElem k a a = zeroElem k :=
  BitVec.xor_self

theorem addElem_zeroElem (k : Nat) (a : BitVec (2 ^ k)) : addElem k a (zeroElem k) = a :=
  BitVec.xor_zero

/-! ### Reading the two sources of a field operation (R103, R211, R216) -/

section
variable {s : State} {rs1 rs2 : RegIdx}

theorem readFieldSources_error {c : ErrorCode} (h : readSources s rs1 rs2 = .error c) :
    readFieldSources s rs1 rs2 = .error c := by
  simp only [readFieldSources, h]

theorem readFieldSources_level_ne (h1 : s.Ready rs1) (h2 : s.Ready rs2) (hne : s.levelOf rs1 ≠ s.levelOf rs2) :
    readFieldSources s rs1 rs2 = .error .levelMismatch := by
  simp only [readFieldSources, readSources_ready h1 h2]
  exact if_neg hne

/-- Both elements are named at RS1's level, which is RS2's. -/
theorem readFieldSources_ready (h1 : s.Ready rs1) (h2 : s.Ready rs2) (heq : s.levelOf rs1 = s.levelOf rs2) :
    readFieldSources s rs1 rs2 = .ok (⟨s.levelOf rs1, s.elemAt rs1 (s.levelOf rs1)⟩,
      ⟨s.levelOf rs1, s.elemAt rs2 (s.levelOf rs1)⟩) := by
  simp only [readFieldSources, readSources_ready h1 h2]
  rw [if_pos heq, heq]

/-! ### The result of ADD (R141) -/

theorem addResult_error {c : ErrorCode} (h : readFieldSources s rs1 rs2 = .error c) :
    addResult s rs1 rs2 = .error c := by
  simp only [addResult, h]

theorem addResult_ok {k : Nat} {a b : BitVec (2 ^ k)} (h : readFieldSources s rs1 rs2 = .ok (⟨k, a⟩, ⟨k, b⟩)) :
    addResult s rs1 rs2 = .ok ⟨k, addElem k a b⟩ := by
  simp only [addResult, h, bitsAt_self ⟨k, b⟩]

end

/-! ### The statements on addition -/

/-- Settles O6: addition is XOR, whose laws hold at every width. -/
theorem additionLaws : Obligations.AdditionLaws :=
  fun k a b c => ⟨addElem_comm k a b, addElem_assoc k a b c, addElem_self k a, addElem_zeroElem k a⟩

/-- Settles O22: reading the sources of a field operation yields two elements of one level, which ADD adds, or an
error, which ADD hands on. -/
theorem addCommand : Obligations.AddCommand := by
  refine fun s => ⟨fun w hopc => executesAs_of_decode (r := rejectReason w) ?_ s, fun rd rs1 rs2 => ⟨?_, ?_, ?_⟩⟩
  · simp [decode_eq_by_fields, hopc, operandsOf]
  · exact fun h1 h2 heq => exec_of_result (.add rd rs1 rs2) (addResult_ok (readFieldSources_ready h1 h2 heq))
  · exact twoSourceErrors_of_readSources fun c hc => addResult_error (readFieldSources_error hc)
  · exact fun h1 h2 hne => exec_of_error (.add rd rs1 rs2) (addResult_error (readFieldSources_level_ne h1 h2 hne))

end Sys2Proof.Machine
end

section
/-! PROOFS. The family of 42_multiply.md: MUL (R157). The reading of its two sources is ADD's, so only the result of
MUL is new: the product of two elements of one level, or the error that reading them gave. -/

namespace Sys2Proof.Machine

/-! ### The result of MUL (R157) -/

section
variable {s : State} {rs1 rs2 : RegIdx}

theorem mulResult_error {c : ErrorCode} (h : readFieldSources s rs1 rs2 = .error c) :
    mulResult s rs1 rs2 = .error c := by
  simp only [mulResult, h]

theorem mulResult_ok {k : Nat} {a b : BitVec (2 ^ k)} (h : readFieldSources s rs1 rs2 = .ok (⟨k, a⟩, ⟨k, b⟩)) :
    mulResult s rs1 rs2 = .ok ⟨k, mulElem s.params k a b⟩ := by
  simp only [mulResult, h, bitsAt_self ⟨k, b⟩]

end

/-! ### The statement on MUL -/

/-- Settles O23: reading the sources of a field operation yields two elements of one level, which MUL multiplies under
the state's own constants, or an error, which MUL hands on. -/
theorem mulCommand : Obligations.MulCommand := by
  refine fun s => ⟨fun w hopc => executesAs_of_decode (r := rejectReason w) ?_ s, fun rd rs1 rs2 => ⟨?_, ?_, ?_⟩⟩
  · simp [decode_eq_by_fields, hopc, operandsOf]
  · exact fun h1 h2 heq => exec_of_result (.mul rd rs1 rs2) (mulResult_ok (readFieldSources_ready h1 h2 heq))
  · exact twoSourceErrors_of_readSources fun c hc => mulResult_error (readFieldSources_error hc)
  · exact fun h1 h2 hne => exec_of_error (.mul rd rs1 rs2) (mulResult_error (readFieldSources_level_ne h1 h2 hne))

end Sys2Proof.Machine
end

section
/-! PROOFS. The family of 43_invert.md: INV (R174). First how the halves of an element behave; then the laws of mul_k
under any CONSTS (R154) and T_k inside T_(k+1); then inversion as 43_invert.md section 1 derives it, by the conjugate
and the norm (R171, R173, R175); last the result of INV and the statement. -/

namespace Sys2Proof.Machine

/-! ### Halves and joins (R121, R122, R125) -/

@[simp] theorem hiHalf_joinHalves (k : Nat) (h l : BitVec (2 ^ k)) : hiHalf k (joinHalves k h l) = h := by
  refine BitVec.eq_of_getLsbD_eq fun j hj => ?_
  have hge : ¬ 2 ^ k + j < 2 ^ k := by omega
  rw [getLsbD_hiHalf, getLsbD_joinHalves, if_neg hge, Nat.add_sub_cancel_left, decide_eq_true hj, Bool.true_and]

@[simp] theorem loHalf_joinHalves (k : Nat) (h l : BitVec (2 ^ k)) : loHalf k (joinHalves k h l) = l := by
  refine BitVec.eq_of_getLsbD_eq fun j hj => ?_
  rw [getLsbD_loHalf, getLsbD_joinHalves, if_pos hj, decide_eq_true hj, Bool.true_and]

@[simp] theorem joinHalves_hiHalf_loHalf (k : Nat) (v : BitVec (2 ^ (k + 1))) :
    joinHalves k (hiHalf k v) (loHalf k v) = v := by
  refine BitVec.eq_of_getLsbD_eq fun j hj => ?_
  rw [getLsbD_joinHalves, getLsbD_hiHalf, getLsbD_loHalf]
  split_ifs with hlow
  · rw [decide_eq_true hlow, Bool.true_and]
  · have hhigh : j - 2 ^ k < 2 ^ k := by omega
    rw [decide_eq_true hhigh, Bool.true_and, Nat.add_sub_cancel' (Nat.not_lt.mp hlow)]

theorem hiHalf_xor (k : Nat) (a b : BitVec (2 ^ (k + 1))) : hiHalf k (a ^^^ b) = hiHalf k a ^^^ hiHalf k b := by
  refine BitVec.eq_of_getLsbD_eq fun j _ => ?_
  simp only [getLsbD_hiHalf, BitVec.getLsbD_xor, Bool.and_xor_distrib_left]

theorem loHalf_xor (k : Nat) (a b : BitVec (2 ^ (k + 1))) : loHalf k (a ^^^ b) = loHalf k a ^^^ loHalf k b := by
  refine BitVec.eq_of_getLsbD_eq fun j _ => ?_
  simp only [getLsbD_loHalf, BitVec.getLsbD_xor, Bool.and_xor_distrib_left]

theorem joinHalves_xor (k : Nat) (h l h' l' : BitVec (2 ^ k)) :
    joinHalves k h l ^^^ joinHalves k h' l' = joinHalves k (h ^^^ h') (l ^^^ l') := by
  rw [← joinHalves_hiHalf_loHalf k (joinHalves k h l ^^^ joinHalves k h' l')]
  simp only [hiHalf_xor, loHalf_xor, hiHalf_joinHalves, loHalf_joinHalves]

@[simp] theorem hiHalf_zero (k : Nat) : hiHalf k 0#(2 ^ (k + 1)) = 0#(2 ^ k) :=
  BitVec.extractLsb'_zero

@[simp] theorem loHalf_zero (k : Nat) : loHalf k 0#(2 ^ (k + 1)) = 0#(2 ^ k) :=
  BitVec.extractLsb'_zero

@[simp] theorem joinHalves_zero_zero (k : Nat) : joinHalves k 0#(2 ^ k) 0#(2 ^ k) = 0#(2 ^ (k + 1)) := by
  rw [← joinHalves_hiHalf_loHalf k 0#(2 ^ (k + 1)), hiHalf_zero, loHalf_zero]

@[simp] theorem hiHalf_one (k : Nat) : hiHalf k 1#(2 ^ (k + 1)) = 0#(2 ^ k) :=
  (congrArg (hiHalf k) (joinHalves_zero_one k)).symm.trans (hiHalf_joinHalves k 0 1)

@[simp] theorem loHalf_one (k : Nat) : loHalf k 1#(2 ^ (k + 1)) = 1#(2 ^ k) :=
  (congrArg (loHalf k) (joinHalves_zero_one k)).symm.trans (loHalf_joinHalves k 0 1)

/-! ### The laws of mul_k (R154) -/

section
variable (p : Params) (k : Nat)

theorem mulElem_comm (a b : BitVec (2 ^ k)) : mulElem p k a b = mulElem p k b a := by
  induction k with
  | zero => exact BitVec.and_comm a b
  | succ k ih =>
    simp only [mulElem_level_succ, ih (hiHalf k b), ih (loHalf k b)]
    rw [BitVec.xor_comm (mulElem p k (hiHalf k a) (loHalf k b))]

@[simp] theorem mulElem_zero (a : BitVec (2 ^ k)) : mulElem p k a 0#(2 ^ k) = 0#(2 ^ k) := by
  induction k with
  | zero => exact BitVec.and_zero
  | succ k ih => simp only [mulElem_level_succ, hiHalf_zero, loHalf_zero, ih, BitVec.xor_zero, joinHalves_zero_zero]

@[simp] theorem zero_mulElem (a : BitVec (2 ^ k)) : mulElem p k 0#(2 ^ k) a = 0#(2 ^ k) := by
  rw [mulElem_comm, mulElem_zero]

theorem mulElem_xor (a b c : BitVec (2 ^ k)) : mulElem p k a (b ^^^ c) = mulElem p k a b ^^^ mulElem p k a c := by
  induction k with
  | zero =>
    refine BitVec.eq_of_getLsbD_eq fun j _ => ?_
    simp only [mulElem_level_zero, BitVec.getLsbD_and, BitVec.getLsbD_xor, Bool.and_xor_distrib_left]
  | succ k ih =>
    simp only [mulElem_level_succ, hiHalf_xor, loHalf_xor, ih, joinHalves_xor]
    congr 1 <;> ac_rfl

theorem xor_mulElem (a b c : BitVec (2 ^ k)) : mulElem p k (a ^^^ b) c = mulElem p k a c ^^^ mulElem p k b c := by
  simp only [mulElem_comm p k _ c, mulElem_xor]

/-- Both products are the same sum of products of three halves, since X^2 folds in the same way on either side. -/
theorem mulElem_assoc (a b c : BitVec (2 ^ k)) :
    mulElem p k (mulElem p k a b) c = mulElem p k a (mulElem p k b c) := by
  induction k with
  | zero => exact BitVec.and_assoc a b c
  | succ k ih =>
    have hcomm : Std.Commutative (mulElem p k) := ⟨mulElem_comm p k⟩
    have hassoc : Std.Associative (mulElem p k) := ⟨ih⟩
    simp only [mulElem_level_succ, hiHalf_joinHalves, loHalf_joinHalves, mulElem_xor, xor_mulElem]
    congr 1 <;> ac_rfl

theorem mulElem_left_comm (a b c : BitVec (2 ^ k)) :
    mulElem p k a (mulElem p k b c) = mulElem p k b (mulElem p k a c) := by
  rw [← mulElem_assoc, mulElem_comm p k a b, mulElem_assoc]

@[simp] theorem mulElem_one (a : BitVec (2 ^ k)) : mulElem p k a 1#(2 ^ k) = a := by
  induction k with
  | zero => exact BitVec.and_allOnes
  | succ k ih =>
    simp only [mulElem_level_succ, hiHalf_one, loHalf_one, mulElem_zero, ih, BitVec.xor_zero,
      joinHalves_hiHalf_loHalf]

end

/-! ### T_k in T_(k+1), the conjugate and the norm (R170, R175) -/

section
variable (p : Params) (k : Nat)

/-- An element of T_k times an element of T_(k+1) multiplies both halves. -/
theorem mulElem_joinHalves_zero (n h l : BitVec (2 ^ k)) :
    mulElem p (k + 1) (joinHalves k 0#(2 ^ k) n) (joinHalves k h l) =
      joinHalves k (mulElem p k n h) (mulElem p k n l) := by
  simp only [mulElem_level_succ, hiHalf_joinHalves, loHalf_joinHalves, zero_mulElem, mulElem_zero, BitVec.xor_zero,
    BitVec.zero_xor]

/-- The coefficient of X cancels: a1 (a0 + c a1) + a0 a1 is c a1^2. -/
theorem mulElem_conjugate (a : BitVec (2 ^ (k + 1))) :
    mulElem p (k + 1) a (joinHalves k (hiHalf k a) (conjLo p k a)) = joinHalves k 0#(2 ^ k) (normElem p k a) := by
  have hconj : conjLo p k a = loHalf k a ^^^ mulElem p k (extConst p k) (hiHalf k a) := rfl
  have hcross : mulElem p k (hiHalf k a) (conjLo p k a) ^^^ mulElem p k (loHalf k a) (hiHalf k a) =
      mulElem p k (extConst p k) (mulElem p k (hiHalf k a) (hiHalf k a)) := by
    rw [hconj, mulElem_xor, mulElem_comm p k (loHalf k a), BitVec.xor_comm, ← BitVec.xor_assoc, BitVec.xor_self,
      BitVec.zero_xor, mulElem_left_comm]
  rw [mulElem_level_succ, hiHalf_joinHalves, loHalf_joinHalves, hcross, BitVec.xor_self]
  rfl

theorem normElem_zero : normElem p k 0#(2 ^ (k + 1)) = 0#(2 ^ k) := by
  simp only [normElem_eq, hiHalf_zero, loHalf_zero, mulElem_zero, BitVec.xor_zero]

end

/-! ### Inversion (R171, R173) -/

section
variable {p : Params} {k : Nat}

/-- What inv_k answers is the inverse, under any CONSTS: it is the conjugate divided by the norm. -/
theorem mulElem_invElem {a r : BitVec (2 ^ k)} (h : invElem p k a = .ok r) : mulElem p k a r = 1#(2 ^ k) := by
  induction k with
  | zero =>
    rw [invElem_level_zero, bfInv] at h
    split at h
    · next ha => cases h; rw [ha]; rfl
    · cases h
  | succ k ih =>
    cases hn : invElem p k (normElem p k a) with
    | error c => rw [invElem_level_succ_error hn] at h; cases h
    | ok n =>
      rw [invElem_level_succ_ok hn] at h
      cases h
      calc mulElem p (k + 1) a (joinHalves k (mulElem p k n (hiHalf k a)) (mulElem p k n (conjLo p k a)))
        _ = mulElem p (k + 1) (joinHalves k 0#(2 ^ k) n)
              (mulElem p (k + 1) a (joinHalves k (hiHalf k a) (conjLo p k a))) := by
          rw [← mulElem_joinHalves_zero, mulElem_left_comm]
        _ = joinHalves k 0#(2 ^ k) (mulElem p k (normElem p k a) n) := by
          rw [mulElem_conjugate, mulElem_joinHalves_zero, mulElem_zero, mulElem_comm p k n]
        _ = joinHalves k 0#(2 ^ k) 1#(2 ^ k) := by rw [ih hn]
        _ = 1#(2 ^ (k + 1)) := joinHalves_zero_one k

/-- The norm of zero is zero at every level, down to the base field. -/
theorem invElem_zero : invElem p k 0#(2 ^ k) = .error .divByZero := by
  induction k with
  | zero => rfl
  | succ k ih => exact invElem_level_succ_error (by rw [normElem_zero, ih])

/-- Under R37 no norm on the way down to the base field is zero. -/
theorem invElem_of_ne_zero (hp : ConstsIrreducible p) (hk : k ≤ p.maxLevel.val) {a : BitVec (2 ^ k)}
    (ha : a ≠ 0#(2 ^ k)) : ∃ r, invElem p k a = .ok r := by
  induction k with
  | zero => exact ⟨1, if_pos ((BitVec.eq_zero_or_eq_one a).resolve_left ha)⟩
  | succ k ih =>
    obtain ⟨n, hn⟩ := ih (by omega) (hp k hk a ha)
    exact ⟨_, invElem_level_succ_ok hn⟩

/-- An element has one inverse, so under R37 the inverse of what inv_k answers is the element itself. -/
theorem invElem_invElem (hp : ConstsIrreducible p) (hk : k ≤ p.maxLevel.val) {a r : BitVec (2 ^ k)}
    (h : invElem p k a = .ok r) : invElem p k r = .ok a := by
  have har : mulElem p k a r = 1#(2 ^ k) := mulElem_invElem h
  have hr : r ≠ 0#(2 ^ k) := by
    rintro rfl
    simp at har
  obtain ⟨r', hr'⟩ := invElem_of_ne_zero hp hk hr
  have hunique : r' = a :=
    calc r' = mulElem p k r' (mulElem p k a r) := by rw [har, mulElem_one]
      _ = mulElem p k a (mulElem p k r r') := by rw [mulElem_left_comm, mulElem_comm p k r]
      _ = a := by rw [mulElem_invElem hr', mulElem_one]
  rw [hr', hunique]

end

/-! ### The result of INV (R174) -/

section
variable {s : State} {rs1 : RegIdx}

theorem invResult_source_error {c : ErrorCode} (h : readSource s rs1 = .error c) : invResult s rs1 = .error c := by
  simp only [invResult, h]

theorem invResult_ok {r : BitVec (2 ^ s.levelOf rs1)} (hready : s.Ready rs1)
    (h : invElem s.params (s.levelOf rs1) (s.elemAt rs1 (s.levelOf rs1)) = .ok r) :
    invResult s rs1 = .ok ⟨s.levelOf rs1, r⟩ := by
  simp only [invResult, readSource_ready hready.1 hready.2, h]

theorem invResult_divByZero {c : ErrorCode} (hready : s.Ready rs1)
    (h : invElem s.params (s.levelOf rs1) (s.elemAt rs1 (s.levelOf rs1)) = .error c) :
    invResult s rs1 = .error .divByZero := by
  simp only [invResult, readSource_ready hready.1 hready.2, h, invElem_error h]

end

/-! ### The statement on INV -/

/-- Settles O24: INV writes what inv_k answers for its source, and records the error of the source or of inv_k. Under
R37 inv_k answers for every nonzero element. -/
theorem invCommand : Obligations.InvCommand := by
  refine fun s => ⟨fun w hopc => executesAs_of_decode (r := rejectReason w) ?_ s, fun rd rs1 => ⟨?_, ?_, ?_, ?_, ?_⟩⟩
  · simp [decode_eq_by_fields, hopc, operandsOf]
  · exact fun r hready hinv => exec_of_result (.inv rd rs1) (invResult_ok hready hinv)
  · intro hp hready hne
    obtain ⟨r, hinv⟩ := invElem_of_ne_zero hp hready.2 hne
    exact ⟨r, mulElem_invElem hinv, invElem_invElem hp hready.2 hinv,
      exec_of_result (.inv rd rs1) (invResult_ok hready hinv)⟩
  · exact oneSourceErrors_of_readSource fun c hc => invResult_source_error hc
  · exact fun c hready hinv => exec_of_error (.inv rd rs1) (invResult_divByZero hready hinv)
  · intro hready hzero
    have hinv := (congrArg (invElem s.params (s.levelOf rs1)) hzero).trans invElem_zero
    exact exec_of_error (.inv rd rs1) (invResult_divByZero hready hinv)

end Sys2Proof.Machine
end

section
/-! PROOFS. The family of 44_base_field.md: the base-field operations (R190, R191, R192). First what each one is; then
level 0 of the tower operations, where their recursions end; last the statement. -/

namespace Sys2Proof.Machine

/-! ### The base-field operations (R190, R191, R192) -/

@[simp] theorem bfAdd_eq_xor (a b : BitVec 1) : bfAdd a b = a ^^^ b := rfl

@[simp] theorem bfMul_eq_and (a b : BitVec 1) : bfMul a b = a &&& b := rfl

@[simp] theorem bfInv_one : bfInv 1#1 = .ok 1#1 := if_pos rfl

@[simp] theorem bfInv_zero : bfInv 0#1 = .error .divByZero := if_neg (by decide)

/-! ### Level 0 of the tower operations (R140, R150) -/

theorem addElem_level_zero (a b : BitVec 1) : addElem 0 a b = bfAdd a b := rfl

theorem mulElem_level_zero_eq_bfMul (p : Params) (a b : BitVec 1) : mulElem p 0 a b = bfMul a b :=
  (mulElem_level_zero p a b).trans (bfMul_eq_and a b).symm

/-! ### The statement on the base field -/

/-- Settles O5: each operation is its gate, at level 0 of the tower too, so the eight rows of the two tables are those
of XOR and AND on one bit. -/
theorem baseFieldTables : Obligations.BaseFieldTables := by
  refine ⟨fun a b => ⟨bfAdd_eq_xor a b, bfMul_eq_and a b, addElem_level_zero a b⟩,
    ?_, ?_, ?_, ?_, ?_, ?_, ?_, ?_, bfInv_one, bfInv_zero,
    fun p a b => ⟨mulElem_level_zero_eq_bfMul p a b, invElem_level_zero p a⟩⟩
  all_goals simp only [bfAdd_eq_xor, bfMul_eq_and]; decide

end Sys2Proof.Machine
end

section
/-! PROOFS. The family of 45_divide.md: division (R200) and DIV (R201). First div_k by what inv_k answers for the
divisor; then the result of DIV, whose sources are read as ADD's are; last the two statements. -/

namespace Sys2Proof.Machine

/-! ### Division by what inversion answers (R200) -/

section
variable {p : Params} {k : Nat} {a b : BitVec (2 ^ k)}

theorem divElem_of_invElem_ok {r : BitVec (2 ^ k)} (h : invElem p k b = .ok r) :
    divElem p k a b = .ok (mulElem p k a r) := by
  simp only [divElem, h]

theorem divElem_of_invElem_error {c : ErrorCode} (h : invElem p k b = .error c) : divElem p k a b = .error c := by
  simp only [divElem, h]

theorem divElem_eq_error_iff {c : ErrorCode} : divElem p k a b = .error c ↔ invElem p k b = .error c := by
  refine ⟨fun hdiv => ?_, divElem_of_invElem_error⟩
  cases hinv : invElem p k b with
  | error d => rwa [divElem_of_invElem_error hinv] at hdiv
  | ok r => rw [divElem_of_invElem_ok hinv] at hdiv; cases hdiv

/-- The divisor cancels: (a b^-1) b = a (b b^-1), under any CONSTS. -/
theorem mulElem_quotient {r : BitVec (2 ^ k)} (h : invElem p k b = .ok r) :
    mulElem p k (mulElem p k a r) b = a := by
  rw [mulElem_assoc, mulElem_comm p k r, mulElem_invElem h, mulElem_one]

/-- Under R37 zero alone has no inverse (R173). -/
theorem invElem_eq_divByZero_iff (hp : ConstsIrreducible p) (hk : k ≤ p.maxLevel.val) :
    invElem p k b = .error .divByZero ↔ b = zeroElem k := by
  refine ⟨fun hinv => ?_, fun hzero => hzero ▸ invElem_zero⟩
  by_contra hne
  obtain ⟨r, hr⟩ := invElem_of_ne_zero hp hk hne
  rw [hr] at hinv
  cases hinv

theorem zero_divElem (hp : ConstsIrreducible p) (hk : k ≤ p.maxLevel.val) (hb : b ≠ zeroElem k) :
    divElem p k (zeroElem k) b = .ok (zeroElem k) := by
  obtain ⟨r, hinv⟩ := invElem_of_ne_zero hp hk hb
  exact (divElem_of_invElem_ok hinv).trans (congrArg Except.ok (zero_mulElem p k r))

end

/-! ### The result of DIV (R201) -/

section
variable {s : State} {rs1 rs2 : RegIdx}

theorem divResult_error {c : ErrorCode} (h : readFieldSources s rs1 rs2 = .error c) :
    divResult s rs1 rs2 = .error c := by
  simp only [divResult, h]

theorem divResult_ok {k : Nat} {a b r : BitVec (2 ^ k)} (h : readFieldSources s rs1 rs2 = .ok (⟨k, a⟩, ⟨k, b⟩))
    (hinv : invElem s.params k b = .ok r) : divResult s rs1 rs2 = .ok ⟨k, mulElem s.params k a r⟩ := by
  simp only [divResult, h, bitsAt_self ⟨k, b⟩, divElem_of_invElem_ok hinv]

theorem divResult_divByZero {k : Nat} {a b : BitVec (2 ^ k)} {c : ErrorCode}
    (h : readFieldSources s rs1 rs2 = .ok (⟨k, a⟩, ⟨k, b⟩)) (hinv : invElem s.params k b = .error c) :
    divResult s rs1 rs2 = .error .divByZero := by
  simp only [divResult, h, bitsAt_self ⟨k, b⟩, divElem_of_invElem_error hinv, invElem_error hinv]

end

/-! ### The statements on division -/

/-- Settles O18: division fails as the inversion of its divisor does, under R37 on zero alone. The example of level 2
is evaluated in both orders of its operands. -/
theorem divisionIsProductByInverse : Obligations.DivisionIsProductByInverse := by
  refine ⟨fun p k a b => ⟨fun r => divElem_of_invElem_ok, divElem_eq_error_iff⟩,
    fun p hp k hk a b => ⟨divElem_eq_error_iff.trans (invElem_eq_divByZero_iff hp hk), zero_divElem hp hk⟩, ?_, ?_⟩
  · decide
  · decide

/-- Settles O25: reading the sources of a field operation yields two elements of one level or an error, which DIV hands
on before the divisor is inverted; so LEVEL_MISMATCH comes before DIV_BY_ZERO. -/
theorem divCommand : Obligations.DivCommand := by
  refine fun s => ⟨fun w hopc => executesAs_of_decode (r := rejectReason w) ?_ s,
    fun rd rs1 rs2 => ⟨?_, ?_, ?_, ?_, ?_, ?_⟩⟩
  · simp [decode_eq_by_fields, hopc, operandsOf]
  · exact fun r h1 h2 heq hinv =>
      exec_of_result (.div rd rs1 rs2) (divResult_ok (readFieldSources_ready h1 h2 heq) hinv)
  · intro hp h1 h2 heq hne
    obtain ⟨r, hinv⟩ := invElem_of_ne_zero hp h1.2 hne
    exact ⟨_, mulElem_quotient hinv,
      exec_of_result (.div rd rs1 rs2) (divResult_ok (readFieldSources_ready h1 h2 heq) hinv)⟩
  · exact twoSourceErrors_of_readSources fun c hc => divResult_error (readFieldSources_error hc)
  · exact fun h1 h2 hne => exec_of_error (.div rd rs1 rs2) (divResult_error (readFieldSources_level_ne h1 h2 hne))
  · exact fun c h1 h2 heq hinv =>
      exec_of_error (.div rd rs1 rs2) (divResult_divByZero (readFieldSources_ready h1 h2 heq) hinv)
  · intro h1 h2 heq hzero
    have hinv := (congrArg (invElem s.params (s.levelOf rs1)) hzero).trans invElem_zero
    exact exec_of_error (.div rd rs1 rs2) (divResult_divByZero (readFieldSources_ready h1 h2 heq) hinv)

end Sys2Proof.Machine
end

section
/-! PROOFS. The family of 60_exceptions.md: commands written while an error is recorded (R215), and the host's clear of
the record (R217). First what a step does with a write to CMD and to STATUS; then the two statements. -/

namespace Sys2Proof.Machine

/-! ### A host write to CMD (R102, R215) -/

theorem issueCommand_of_err {s : State} (w : Word) (herr : s.err = true) :
    issueCommand w s = .next { s with drop := true } := by
  simp only [issueCommand, herr, if_true]

theorem issueCommand_of_decode {s : State} {w : Word} {i : Instr} (herr : s.err = false) (hdecode : decode w = .ok i) :
    issueCommand w s = mapNext (fun t => t.setBusy false) (exec i (enterBusy s)) := by
  simp only [issueCommand, herr, executeWord, hdecode, Bool.false_eq_true, if_false]

/-- Outside reset, a write to CMD issues its word, whatever word it is. -/
theorem step_cmdWrite {s : State} {q : List HostEvent} {w : Word} (hhost : s.host = cmdWrite w :: q)
    (hreset : s.resetIn = false) : step s = issueCommand w { s with host := q } := by
  simp [step, serveHost, hhost, cmdWrite, writeAt, serveEvent, Access.supported, hreset, serveAccess]

/-- With ERR = 0 the step of a CMD write runs the decoded command with BUSY = 1 and then sets BUSY = 0. -/
theorem step_cmdWrite_of_decode {s : State} {q : List HostEvent} {w : Word} {i : Instr}
    (hhost : s.host = cmdWrite w :: q) (hreset : s.resetIn = false) (herr : s.err = false)
    (hdecode : decode w = .ok i) :
    step s = mapNext (fun t => t.setBusy false) (exec i (enterBusy { s with host := q })) :=
  (step_cmdWrite hhost hreset).trans (issueCommand_of_decode (s := { s with host := q }) herr hdecode)

/-! ### A host write to STATUS (R217) -/

section
variable {s : State} {q : List HostEvent} {v : Word}

theorem step_statusWrite (hhost : s.host = writeAt 0x00C v :: q) (hreset : s.resetIn = false) :
    step s = .next (if v.getLsbD 1 then State.clearError { s with host := q } else { s with host := q }) :=
  step_writeAt hhost hreset (by decide) (by decide)

theorem step_statusWrite_clear (hhost : s.host = writeAt 0x00C v :: q) (hreset : s.resetIn = false)
    (hclear : v.getLsbD 1 = true) : step s = .next (State.clearError { s with host := q }) :=
  (step_statusWrite hhost hreset).trans (by rw [if_pos hclear])

theorem step_statusWrite_keep (hhost : s.host = writeAt 0x00C v :: q) (hreset : s.resetIn = false)
    (hkeep : v.getLsbD 1 = false) : step s = .next { s with host := q } :=
  (step_statusWrite hhost hreset).trans (by rw [hkeep, if_neg Bool.false_ne_true])

end

/-! ### The statements on the error record -/

/-- Settles O37: the step issues the word, and an issue with ERR = 1 sets DROP before anything is decoded. -/
theorem commandDroppedWhileError : Obligations.CommandDroppedWhileError :=
  fun s q w hhost hreset herr =>
    (step_cmdWrite hhost hreset).trans (issueCommand_of_err (s := { s with host := q }) w herr)

/-- Settles O38: bit 1 decides between clearError and no change; clearError leaves ERR = 0, with which the next word
written to CMD executes. -/
theorem statusWriteClearsRecord : Obligations.StatusWriteClearsRecord := by
  refine fun s q v hhost hreset => ⟨step_statusWrite_clear hhost hreset, step_statusWrite_keep hhost hreset, ?_⟩
  intro q' w i hclear hq hdecode
  exact ⟨State.clearError { s with host := q }, step_statusWrite_clear hhost hreset hclear,
    step_cmdWrite_of_decode hq hreset (State.clearError_err _) hdecode⟩

end Sys2Proof.Machine
end

section
/-! PROOFS. The family of 70_reset_and_hazards.md: the reset input (R240). First that applyReset gives the reset values;
then what a step does with an edge of the input, and while it is asserted; last the statement. -/

namespace Sys2Proof.Machine

/-- applyReset gives every piece of state the value of R55. -/
theorem applyReset_atResetValues (s : State) : s.applyReset.AtResetValues :=
  ⟨reg_applyReset s, rfl, rfl, rfl, rfl, rfl⟩

section
variable {s : State} {q : List HostEvent}

/-- An edge of the reset input: asserting it always resets, releasing it does when it was asserted. -/
theorem step_resetLine {b : Bool} (hhost : s.host = .resetLine b :: q) (hedge : b = true ∨ s.resetIn = true) :
    step s = .next { State.applyReset { s with host := q } with resetIn := b } := by
  have hdrive : (b || s.resetIn) = true := by simpa using hedge
  simp only [step, serveHost, hhost, serveEvent, driveReset, hdrive, if_true]

/-- While reset is asserted, a supported access goes to serveInReset, whatever its register. -/
theorem step_access_inReset {a : Access} (hhost : s.host = .access a :: q) (hsupported : a.supported = true)
    (hreset : s.resetIn = true) : step s = .next (serveInReset a { s with host := q }) := by
  simp only [step, serveHost, hhost, serveEvent, hsupported, hreset, Bool.true_eq_false, if_false, if_true]

/-- A 32-bit access is supported at every multiple of 4 (R66). -/
theorem supported_of_aligned {off : Offset} (haligned : off.toNat % 4 = 0) (kind : AccessKind) :
    Access.supported ⟨4, off, kind⟩ = true := by
  simp [Access.supported, haligned]

theorem step_writeAt_inReset {off : Offset} {v : Word} (hhost : s.host = writeAt off v :: q)
    (haligned : off.toNat % 4 = 0) (hreset : s.resetIn = true) :
    step s = .next (State.applyReset { s with host := q }) :=
  step_access_inReset hhost (supported_of_aligned haligned _) hreset

/-- A read in reset returns a free value, and the state is still the reset state. -/
theorem step_readAt_inReset {off : Offset} (hhost : s.host = readAt off :: q) (haligned : off.toNat % 4 = 0)
    (hreset : s.resetIn = true) :
    step s = .next (State.reply { State.applyReset { s with host := q } with freeCount := s.freeCount + 1 }
      (Config.freeReadData s.freeCount)) :=
  step_access_inReset hhost (supported_of_aligned haligned _) hreset

theorem step_idle_inReset (hhost : s.host = []) (hreset : s.resetIn = true) : step s = .next s.applyReset := by
  simp only [step, serveHost, hhost, idle, hreset, if_true]

end

/-- Settles O52: each kind of step is one applyReset, and what is set besides it (the level of the input, the word
returned, the free-value counter) is no part of the reset values. -/
theorem resetInput : Obligations.ResetInput := by
  refine ⟨fun s q hhost => ?assert, fun s q hhost hreset => ?release, fun s q off v hhost haligned hreset => ?write,
    fun s q off hhost haligned hreset => ?read, fun s hhost hreset => ?idle⟩
  case idle => exact ⟨_, step_idle_inReset hhost hreset, applyReset_atResetValues s, rfl, hreset, hhost, rfl⟩
  all_goals have hvalues := applyReset_atResetValues { s with host := q }
  case assert => exact ⟨_, step_resetLine hhost (.inl rfl), hvalues, rfl, rfl, rfl, rfl⟩
  case release => exact ⟨_, step_resetLine hhost (.inr hreset), hvalues, rfl, rfl, rfl, rfl⟩
  case write => exact ⟨_, step_writeAt_inReset hhost haligned hreset, hvalues, rfl, hreset, rfl, rfl⟩
  case read => exact ⟨_, _, step_readAt_inReset hhost haligned hreset, hvalues, rfl, hreset, rfl, rfl⟩

end Sys2Proof.Machine
end

section
/-! PROOFS. What one step can do to the registers, said once, and what holds of every step: the invariant
(10_state.md section 4, 60_exceptions.md section 2, 70_reset_and_hazards.md section 1), what clears and sets ERR, and
what changes an element register. First the offsets of the registers that a step distinguishes; then the effect of a
step; then the changes that keep the invariant; last the statements. -/

namespace Sys2Proof.Machine

/-! ### The offset of a register (R61) -/

theorem eq_of_registerAt_control {off : Offset} :
    (registerAt off = .id → off = 0x000) ∧ (registerAt off = .config → off = 0x004) ∧
      (registerAt off = .cmd → off = 0x008) ∧ (registerAt off = .status → off = 0x00C) := by
  simp only [← BitVec.toNat_inj]
  unfold registerAt elementBlockReg
  grind

theorem eq_of_registerAt_cmd {off : Offset} (h : registerAt off = .cmd) : off = 0x008 := by
  obtain ⟨-, -, hcmd, -⟩ := eq_of_registerAt_control (off := off)
  exact hcmd h

theorem eq_of_registerAt_status {off : Offset} (h : registerAt off = .status) : off = 0x00C := by
  obtain ⟨-, -, -, hstatus⟩ := eq_of_registerAt_control (off := off)
  exact hstatus h

theorem eq_of_registerAt_tag {off : Offset} {i : RegIdx} (h : registerAt off = .tag i) : off = tagOffset i := by
  have hoff : off.toNat = 0x100 + 0x40 * i.val := by
    unfold registerAt elementBlockReg at h
    grind
  rw [tagOffset, ← hoff, BitVec.ofNat_toNat, BitVec.setWidth_eq]

theorem eq_of_registerAt_data {off : Offset} {i : RegIdx} {w : Fin 8} (h : registerAt off = .data i w)
    (haligned : off.toNat % 4 = 0) : off = dataOffset i w := by
  have hoff : off.toNat = 0x120 + 0x40 * i.val + 4 * w.val := by
    unfold registerAt elementBlockReg at h
    grind
  rw [dataOffset, ← hoff, BitVec.ofNat_toNat, BitVec.setWidth_eq]

/-! ### The effect of a step -/

/-- u has the registers of s with BUSY = 0: the state whose registers a command's result or error changes. -/
structure CommandBase (s u : State) : Prop where
  same : SameRegisters { s with busy := false } u
  resetIn : u.resetIn = s.resetIn

theorem CommandBase.params {s u : State} (h : CommandBase s u) : u.params = s.params := by
  obtain ⟨hparams, -⟩ := h.same
  exact hparams.symm

/-- Everything that a step from s to t can do to the registers. -/
inductive StepEffect (s t : State) : Prop where
  /-- Reset (R240). -/
  | reset (cause : s.resetIn = true ∨ ∃ q, s.host = .resetLine true :: q) (values : t.AtResetValues)
  /-- Idle, a read, or a release of the reset input that is not asserted: no register changes. -/
  | quiet (hreset : t.resetIn = false) (same : SameRegisters s t)
  /-- A host write to a register other than CMD (R62 to R64, R217). -/
  | write (q : List HostEvent) (off : Offset) (v : Word) (hhost : s.host = writeAt off v :: q)
      (hreset : s.resetIn = false) (haligned : off.toNat % 4 = 0)
      (hnext : t = writeRegister { s with host := q } v (registerAt off))
  /-- A write to CMD while an error is recorded (R215). -/
  | dropped (q : List HostEvent) (w : Word) (hhost : s.host = cmdWrite w :: q) (hreset : s.resetIn = false)
      (herr : s.err = true) (hnext : t = { s with host := q, drop := true })
  /-- A command that answers (R105). -/
  | result (q : List HostEvent) (w : Word) (i : Instr) (a : TowerElement) (u : State)
      (hhost : s.host = cmdWrite w :: q) (hreset : s.resetIn = false) (herr : s.err = false)
      (hdecode : decode w = .ok i) (hlevel : Supported s a) (hbase : CommandBase s u)
      (hnext : t = u.writeResult i.dest a)
  /-- A command that fails, or an illegal word (R95, R213). -/
  | error (q : List HostEvent) (w : Word) (c : ErrorCode) (u : State) (hhost : s.host = cmdWrite w :: q)
      (hreset : s.resetIn = false) (herr : s.err = false) (hcode : c = .illegalCommand ↔ ∀ i, decode w ≠ .ok i)
      (hbase : CommandBase s u) (hnext : t = u.raise c w)

/-- An executed word writes the result of its command, or records its error with the word itself: ILLEGAL_COMMAND
exactly for a word that does not decode. -/
theorem executeWord_effect (w : Word) (s : State) :
    (∃ i a, decode w = .ok i ∧ Supported s a ∧ executeWord w s = .next (s.writeResult i.dest a)) ∨
    (∃ c, (c = .illegalCommand ↔ ∀ i, decode w ≠ .ok i) ∧ executeWord w s = .next (s.raise c w)) := by
  cases hdecode : decode w with
  | error r => exact .inr ⟨.illegalCommand, by simp, by simp [executeWord, hdecode]⟩
  | ok i =>
    have hexec : executeWord w s = finishCommand i w s (commandResult s i) := by
      rw [← encode_of_decode hdecode, ← exec_eq_finishCommand_commandResult]
      simp [executeWord, decode_encode]
    obtain ⟨a, hr, hlevel⟩ | ⟨c, hr, hc⟩ := (commandResult_answers s i).ok_or_error <;> rw [hexec, hr]
    · exact .inl ⟨i, a, rfl, hlevel, rfl⟩
    · exact .inr ⟨c, by simp [hc], rfl⟩

theorem commandBase_enterBusy (s : State) (q : List HostEvent) :
    CommandBase s ((enterBusy { s with host := q }).setBusy false) := by
  obtain ⟨q', r, h⟩ := enterBusy_frame { s with host := q }
  rw [h]
  exact ⟨⟨rfl, rfl, rfl, rfl, rfl, rfl, rfl⟩, rfl⟩

/-- With ERR = 0 a word written to CMD executes with BUSY = 1, whether it is legal or not (R102). -/
theorem issueCommand_of_not_err {s : State} (w : Word) (herr : s.err = false) :
    issueCommand w s = mapNext (fun t => t.setBusy false) (executeWord w (enterBusy s)) := by
  simp only [issueCommand, herr, Bool.false_eq_true, if_false]

/-- A write to CMD, outside reset, is dropped, or writes a result, or records an error. -/
theorem stepEffect_of_cmdWrite {s t : State} {q : List HostEvent} {w : Word} (hhost : s.host = cmdWrite w :: q)
    (hreset : s.resetIn = false) (h : step s = .next t) : StepEffect s t := by
  have hstep := (step_cmdWrite hhost hreset).symm.trans h
  cases herr : s.err with
  | true =>
    rw [issueCommand_of_err w (s := { s with host := q }) herr] at hstep
    exact .dropped q w hhost hreset herr (Host.Outcome.next.inj hstep).symm
  | false =>
    have hbase := commandBase_enterBusy s q
    have hlevels : ∀ a, Supported (enterBusy { s with host := q }) a → Supported s a := by
      intro a ha
      rwa [Supported, enterBusy_params] at ha
    rw [issueCommand_of_not_err w (s := { s with host := q }) herr] at hstep
    obtain ⟨i, a, hdecode, hlevel, hexec⟩ | ⟨c, hcode, hexec⟩ :=
        executeWord_effect w (enterBusy { s with host := q }) <;>
      rw [hexec, mapNext_next] at hstep <;> have hnext := (Host.Outcome.next.inj hstep).symm
    · exact .result q w i a _ hhost hreset herr hdecode (hlevels a hlevel) hbase hnext
    · exact .error q w c _ hhost hreset herr hcode hbase hnext

theorem serveInReset_atResetValues (a : Access) (s : State) : (serveInReset a s).AtResetValues := by
  unfold serveInReset
  split <;> exact applyReset_atResetValues s

/-- While reset is asserted every step leaves the reset values (R240). -/
theorem atResetValues_of_step_inReset {s t : State} (hreset : s.resetIn = true) (h : step s = .next t) :
    t.AtResetValues := by
  cases hhost : s.host with
  | nil =>
    obtain rfl := Host.Outcome.next.inj ((step_idle_inReset hhost hreset).symm.trans h)
    exact applyReset_atResetValues s
  | cons ev q =>
    cases ev with
    | resetLine b =>
      obtain rfl := Host.Outcome.next.inj ((step_resetLine hhost (.inr hreset)).symm.trans h)
      exact applyReset_atResetValues { s with host := q }
    | access a =>
      cases hsup : a.supported with
      | true =>
        obtain rfl := Host.Outcome.next.inj ((step_access_inReset hhost hsup hreset).symm.trans h)
        exact serveInReset_atResetValues a _
      | false => simp [step, serveHost, hhost, serveEvent_unsupported hsup] at h

/-- A supported access is a 32-bit read or write at a multiple of 4 (R66). -/
theorem eq_readAt_or_writeAt_of_supported {a : Access} (h : a.supported = true) :
    a.offset.toNat % 4 = 0 ∧
      (HostEvent.access a = readAt a.offset ∨ ∃ v, HostEvent.access a = writeAt a.offset v) := by
  obtain ⟨size, off, kind⟩ := a
  simp only [Access.supported, Bool.and_eq_true, beq_iff_eq] at h
  obtain ⟨rfl, haligned⟩ := h
  refine ⟨haligned, ?_⟩
  cases kind with
  | read => exact .inl rfl
  | write v => exact .inr ⟨v, rfl⟩

/-- Every step that has a next state has one of the effects. -/
theorem stepEffect_of_step {s t : State} (h : step s = .next t) : StepEffect s t := by
  cases hreset : s.resetIn with
  | true => exact .reset (.inl hreset) (atResetValues_of_step_inReset hreset h)
  | false =>
    have hsame : ∀ q r, SameRegisters s { s with host := q, replies := r } :=
      fun _ _ => ⟨rfl, rfl, rfl, rfl, rfl, rfl, rfl⟩
    cases hhost : s.host with
    | nil =>
      have hidle : step s = .next s := by simp [step, serveHost, hhost, idle, hreset]
      obtain rfl := Host.Outcome.next.inj (hidle.symm.trans h)
      exact .quiet hreset (hsame _ _)
    | cons ev q =>
      cases ev with
      | resetLine b =>
        cases b with
        | true =>
          obtain rfl := Host.Outcome.next.inj ((step_resetLine hhost (.inl rfl)).symm.trans h)
          exact .reset (.inr ⟨q, hhost⟩) (applyReset_atResetValues { s with host := q })
        | false =>
          have hkeep : step s = .next { s with host := q } := by
            simp [step, serveHost, hhost, serveEvent, driveReset, hreset]
          obtain rfl := Host.Outcome.next.inj (hkeep.symm.trans h)
          exact .quiet hreset (hsame _ _)
      | access a =>
        cases hsup : a.supported with
        | false => simp [step, serveHost, hhost, serveEvent_unsupported hsup] at h
        | true =>
          obtain ⟨haligned, hread | ⟨v, hwrite⟩⟩ := eq_readAt_or_writeAt_of_supported hsup
          · rw [hread] at hhost
            obtain rfl := Host.Outcome.next.inj ((step_readAt hhost hreset haligned).symm.trans h)
            exact .quiet hreset (hsame _ _)
          · rw [hwrite] at hhost
            by_cases hcmd : registerAt a.offset = .cmd
            · rw [eq_of_registerAt_cmd hcmd] at hhost
              exact stepEffect_of_cmdWrite hhost hreset h
            · obtain rfl := Host.Outcome.next.inj ((step_writeAt hhost hreset haligned hcmd).symm.trans h)
              exact .write q a.offset v hhost hreset haligned rfl

/-! ### The changes that keep the invariant -/

theorem reg_eq_of_sameRegisters {s t : State} (h : SameRegisters s t) (i : RegIdx) : t.reg i = s.reg i := by
  obtain ⟨-, he, -⟩ := h
  simp only [State.reg, he]

/-- The reset values meet the invariant, at either level of the reset input. -/
theorem State.AtResetValues.inv {s : State} (h : s.AtResetValues) : s.Inv := by
  have hvalues := h
  obtain ⟨hregs, hbusy, herr, hdrop, hcode, hcmd⟩ := hvalues
  refine ⟨hbusy, ⟨fun _ => ⟨hdrop, hcode, hcmd⟩, fun htrue => ?_⟩, fun i => ?_, fun _ => h⟩
  · rw [herr] at htrue; cases htrue
  · simp [hregs i]

theorem toNat_lt_two_pow_iff {d : Data} {n : Nat} : d.toNat < 2 ^ n ↔ ∀ j, n ≤ j → d.getLsbD j = false := by
  refine ⟨fun h j hj => ?_, fun h => Nat.lt_pow_two_of_testBit _ fun j hj => h j hj⟩
  exact Nat.testBit_lt_two_pow (h.trans_le (Nat.pow_le_pow_right (by decide) hj))

/-- The DATA of a result has no bit at or above W, as its level is at most MAX_LEVEL. -/
theorem toNat_regOf_lt {s : State} {a : TowerElement} (hlevel : Supported s a) :
    (regOf a).data.toNat < 2 ^ dataWidth s.params := by
  have hbits : a.bits.toNat < 2 ^ dataWidth s.params :=
    a.bits.isLt.trans_le (Nat.pow_le_pow_right (by decide) (Nat.pow_le_pow_right (by decide) hlevel))
  exact ((BitVec.toNat_setWidth 256 a.bits).trans_le (Nat.mod_le _ _)).trans_lt hbits

namespace State.Inv

variable {s : State}

theorem of_sameRegisters {t : State} (h : s.Inv) (hsame : SameRegisters s t) (hreset : t.resetIn = false) : t.Inv := by
  have hreg := reg_eq_of_sameRegisters hsame
  obtain ⟨hparams, -, hbusy, herr, hdrop, hcode, hcmd⟩ := hsame
  refine ⟨hbusy ▸ h.idle, ?_, fun i => ?_, fun ht => ?_⟩
  · simpa only [State.RecordOk, herr, hdrop, hcode, hcmd] using h.record
  · rw [hreg i, ← hparams]; exact h.width i
  · rw [hreset] at ht; cases ht

theorem of_commandBase {u : State} (h : s.Inv) (hreset : s.resetIn = false) (hbase : CommandBase s u) : u.Inv := by
  have hsame := hbase.same
  rw [← h.idle] at hsame
  exact h.of_sameRegisters hsame (hbase.resetIn.trans hreset)

/-- A register whose DATA stays below W. -/
theorem setReg (h : s.Inv) (hreset : s.resetIn = false) (i : RegIdx) {r : ElementReg}
    (hr : r.data.toNat < 2 ^ dataWidth s.params) : (s.setReg i r).Inv := by
  refine ⟨h.idle, h.record, fun j => ?_, fun ht => ?_⟩
  · rw [reg_setReg]
    split
    · exact hr
    · exact h.width j
  · cases hreset.symm.trans ht

theorem clearError (h : s.Inv) (hreset : s.resetIn = false) : s.clearError.Inv := by
  refine ⟨h.idle, ⟨fun _ => ⟨rfl, rfl, rfl⟩, nofun⟩, h.width, fun ht => ?_⟩
  cases hreset.symm.trans ht

/-- An error recorded with a word that its code fits (R210). -/
theorem raise (h : s.Inv) (hreset : s.resetIn = false) {c : ErrorCode} {w : Word}
    (hcode : c = .illegalCommand ↔ ∀ i, decode w ≠ .ok i) : (s.raise c w).Inv := by
  have hbits : 1 ≤ (errorCodeBits c).toNat ∧ (errorCodeBits c).toNat ≤ 5 ∧
      (errorCodeBits c = 5 ↔ c = .illegalCommand) := by cases c <;> decide
  obtain ⟨hlow, hhigh, hillegal⟩ := hbits
  refine ⟨h.idle, ⟨nofun, fun _ => ⟨hlow, hhigh, hillegal.trans hcode⟩⟩, h.width, fun ht => ?_⟩
  cases hreset.symm.trans ht

/-- DROP set while an error is recorded (R215). -/
theorem setDrop (h : s.Inv) (hreset : s.resetIn = false) (herr : s.err = true) :
    ({ s with drop := true } : State).Inv := by
  obtain ⟨-, hrecord⟩ := h.record
  refine ⟨h.idle, ⟨fun hfalse => ?_, hrecord⟩, h.width, fun ht => ?_⟩
  · cases herr.symm.trans hfalse
  · cases hreset.symm.trans ht

/-- A write to a register of the window other than CMD: only DATA has a width to keep, and its writes are masked. -/
theorem writeRegister (h : s.Inv) (hreset : s.resetIn = false) (v : Word) (r : WindowReg) :
    (writeRegister s v r).Inv := by
  cases r with
  | id | config | cmd | errCmd | const _ _ | reserved => exact h
  | status =>
    simp only [Machine.writeRegister]
    split
    · exact h.clearError hreset
    · exact h
  | tag i => exact h.setReg hreset i (h.width i)
  | data i w =>
    refine h.setReg hreset i (toNat_lt_two_pow_iff.mpr fun n hn => ?_)
    rw [getLsbD_writeDataWord, if_neg (by omega)]
    exact toNat_lt_two_pow_iff.mp (h.width i) n hn

end State.Inv

/-! ### The statements on every step -/

/-- Settles O55: the reset state of every configuration has the reset values. -/
theorem resetHasInvariant : Obligations.ResetHasInvariant := by
  have hreset : ∀ p, (State.resetWith p).Inv :=
    fun p => State.AtResetValues.inv ⟨reg_resetWith p, rfl, rfl, rfl, rfl, rfl⟩
  exact ⟨hreset, hreset referenceParams⟩

/-- Settles O54: each effect of a step is a change that keeps the invariant. -/
theorem everyStepKeepsInvariant : Obligations.EveryStepKeepsInvariant := by
  intro s t hinv hstep
  cases stepEffect_of_step hstep with
  | reset _ hvalues => exact hvalues.inv
  | quiet hreset hsame => exact hinv.of_sameRegisters hsame hreset
  | write q off v _ hreset _ hnext =>
    have hq : State.Inv { s with host := q } := hinv.of_sameRegisters ⟨rfl, rfl, rfl, rfl, rfl, rfl, rfl⟩ hreset
    exact hnext ▸ hq.writeRegister hreset v _
  | dropped q w _ hreset herr hnext =>
    have hq : State.Inv { s with host := q } := hinv.of_sameRegisters ⟨rfl, rfl, rfl, rfl, rfl, rfl, rfl⟩ hreset
    exact hnext ▸ hq.setDrop hreset herr
  | result q w i a u _ hreset _ _ hlevel hbase hnext =>
    have hwidth : (regOf a).data.toNat < 2 ^ dataWidth u.params := hbase.params ▸ toNat_regOf_lt hlevel
    exact hnext ▸ (hinv.of_commandBase hreset hbase).setReg (hbase.resetIn.trans hreset) i.dest hwidth
  | error q w c u _ hreset _ hcode hbase hnext =>
    exact hnext ▸ (hinv.of_commandBase hreset hbase).raise (hbase.resetIn.trans hreset) hcode

/-- A register write that clears ERR is one of 1 to STATUS bit 1, and none sets it. -/
theorem writeRegister_err (s : State) (v : Word) (r : WindowReg) :
    (writeRegister s v r).err = s.err ∨ (r = .status ∧ v.getLsbD 1 = true ∧ (writeRegister s v r).err = false) := by
  cases r with
  | status =>
    simp only [writeRegister]
    split
    · next hbit => exact .inr ⟨trivial, hbit, rfl⟩
    · exact .inl rfl
  | _ => exact .inl rfl

/-- The effects on ERR: kept, cleared by reset or by the host's write to STATUS, or set by a write to CMD. -/
theorem err_of_step {s t : State} (hstep : step s = .next t) :
    t.err = s.err ∨
    (t.err = false ∧ (s.resetIn = true ∨ (∃ q, s.host = .resetLine true :: q) ∨
      ∃ q v, s.host = writeAt 0x00C v :: q ∧ v.getLsbD 1 = true)) ∨
    (t.err = true ∧ ∃ q w, s.host = cmdWrite w :: q) := by
  cases stepEffect_of_step hstep with
  | reset hcause hvalues =>
    obtain ⟨-, -, herr, -⟩ := hvalues
    exact .inr (.inl ⟨herr, hcause.elim .inl (fun h => .inr (.inl h))⟩)
  | quiet _ hsame =>
    obtain ⟨-, -, -, herr, -⟩ := hsame
    exact .inl herr.symm
  | write q off v hhost _ _ hnext =>
    obtain hkeep | ⟨hstatus, hbit, hfalse⟩ := writeRegister_err { s with host := q } v (registerAt off)
    · exact .inl (hnext ▸ hkeep)
    · rw [eq_of_registerAt_status hstatus] at hhost
      exact .inr (.inl ⟨hnext ▸ hfalse, .inr (.inr ⟨q, v, hhost, hbit⟩)⟩)
  | dropped q w _ _ _ hnext => exact .inl (hnext ▸ rfl)
  | result q w i a u _ _ _ _ _ hbase hnext =>
    obtain ⟨-, -, -, herr, -⟩ := hbase.same
    exact .inl (hnext ▸ herr.symm)
  | error q w c u hhost _ _ _ _ hnext => exact .inr (.inr ⟨hnext ▸ rfl, q, w, hhost⟩)

/-- Settles O39: a step that changes ERR has one of the causes that err_of_step gives for the value it leaves. -/
theorem errChangesOnlyByHostOrCommand : Obligations.ErrChangesOnlyByHostOrCommand := by
  intro s t hstep
  refine ⟨fun hset hclear => ?_, fun hclear hset => ?_⟩ <;>
    obtain hkeep | ⟨hfalse, hcause⟩ | ⟨htrue, hcause⟩ := err_of_step hstep
  · cases hclear.symm.trans (hkeep.trans hset)
  · exact hcause
  · cases hclear.symm.trans htrue
  · cases hset.symm.trans (hkeep.trans hclear)
  · cases hset.symm.trans hfalse
  · exact hcause

/-- A register write changes an element register only as the write of its own TAG or DATA. -/
theorem reg_writeRegister (s : State) (v : Word) (w : WindowReg) (r : RegIdx) :
    (writeRegister s v w).reg r = s.reg r ∨ w = .tag r ∨ ∃ j, w = .data r j := by
  cases w with
  | id | config | cmd | errCmd | const _ _ | reserved => exact .inl rfl
  | status => left; simp only [writeRegister]; split <;> rfl
  | tag i =>
    obtain rfl | hne := eq_or_ne r i
    · exact .inr (.inl rfl)
    · exact .inl (reg_setReg_ne s i r _ hne)
  | data i j =>
    obtain rfl | hne := eq_or_ne r i
    · exact .inr (.inr ⟨j, rfl⟩)
    · exact .inl (reg_setReg_ne s i r _ hne)

theorem CommandBase.reg {s u : State} (h : CommandBase s u) (r : RegIdx) : u.reg r = s.reg r :=
  reg_eq_of_sameRegisters h.same r

/-- Settles O40: of the effects of a step only reset, a write to the register's own TAG or DATA, and a command that
answers to it change it. -/
theorem registersChangeOnlyByOwners : Obligations.RegistersChangeOnlyByOwners := by
  intro s t r hstep hchange
  cases stepEffect_of_step hstep with
  | reset hcause _ => exact hcause.elim .inl (fun h => .inr (.inl h))
  | quiet _ hsame => exact absurd (reg_eq_of_sameRegisters hsame r) hchange
  | write q off v hhost _ haligned hnext =>
    right; right
    obtain hkeep | htag | ⟨j, hdata⟩ := reg_writeRegister { s with host := q } v (registerAt off) r
    · exact absurd (hnext ▸ hkeep) hchange
    · rw [eq_of_registerAt_tag htag] at hhost
      exact .inl ⟨q, v, hhost⟩
    · rw [eq_of_registerAt_data hdata haligned] at hhost
      exact .inr (.inl ⟨q, v, j, hhost⟩)
  | dropped q w _ _ _ hnext => exact absurd (hnext ▸ rfl) hchange
  | result q w i a u hhost _ herr hdecode _ hbase hnext =>
    obtain rfl | hne := eq_or_ne r i.dest
    · exact .inr (.inr (.inr (.inr ⟨q, w, i, hhost, herr, hdecode, rfl⟩)))
    · refine absurd ?_ hchange
      rw [hnext, writeResult_eq_setReg, reg_setReg_ne _ _ _ _ hne, hbase.reg]
  | error q w c u _ _ _ _ hbase hnext =>
    refine absurd ?_ hchange
    rw [hnext, reg_raise, hbase.reg]

end Sys2Proof.Machine
end

section
/-! PROOFS. What a command depends on (30_encoding.md section 4), and the step of a write to CMD (70_reset_and_hazards.md
section 3). First that a result is a function of the source elements; then the reads that overlap a command; then that
executing a word is a function of the registers; last the statements, with the read of a register (20_memory.md
section 3). -/

namespace Sys2Proof.Machine

/-! ### A result is a function of the source elements (R103, 30_encoding.md section 4) -/

/-- The states agree on E[r] as a command sees it: VALID, LEVEL, and the DATA bits below 2^LEVEL. -/
def SameElement (s s' : State) (r : RegIdx) : Prop :=
  (s'.reg r).valid = (s.reg r).valid ∧ (s'.reg r).level = (s.reg r).level ∧
    ∀ n, n < 2 ^ s.levelOf r → (s'.reg r).data.getLsbD n = (s.reg r).data.getLsbD n

section
variable {s s' : State}

theorem readSource_congr {r : RegIdx} (hparams : s'.params = s.params) (h : SameElement s s' r) :
    readSource s' r = readSource s r := by
  obtain ⟨hvalid, hlevel, hdata⟩ := h
  have hbits : (s'.reg r).data.setWidth (2 ^ s.levelOf r) = s.elemAt r (s.levelOf r) :=
    BitVec.eq_of_getLsbD_eq fun n hn => by simp only [BitVec.getLsbD_setWidth, hdata n hn]
  unfold readSource
  rw [hparams]
  generalize s'.reg r = e' at hvalid hlevel hbits
  obtain ⟨v, l, d⟩ := e'
  subst hvalid hlevel
  simp only [hbits]

theorem commandResult_congr {i : Instr} (hparams : s'.params = s.params)
    (h : ∀ r ∈ i.sources, readSource s' r = readSource s r) : commandResult s' i = commandResult s i := by
  cases i with
  | add _ rs1 rs2 | mul _ rs1 rs2 | div _ rs1 rs2 | join _ rs1 rs2 =>
    have h1 : readSource s' rs1 = readSource s rs1 := h rs1 (by simp [Instr.sources])
    have h2 : readSource s' rs2 = readSource s rs2 := h rs2 (by simp [Instr.sources])
    simp only [commandResult, addResult, mulResult, divResult, joinResult, readFieldSources, readSources, h1, h2,
      hparams]
  | inv _ rs1 | hi _ rs1 | lo _ rs1 =>
    have h1 : readSource s' rs1 = readSource s rs1 := h rs1 (by simp [Instr.sources])
    simp only [commandResult, invResult, hiResult, loResult, splitSource, h1, hparams]
  | zero _ lvl | one _ lvl => simp only [commandResult, zeroResult, oneResult, readLevel, hparams]

end

/-- Settles O32: both states give the command the same result or the same error, and each takes it in the same way. -/
theorem commandsReadOnlyTheirElements : Obligations.CommandsReadOnlyTheirElements := by
  intro i s s' hparams hsources
  have hsame : commandResult s' i = commandResult s i :=
    commandResult_congr hparams fun r hr => readSource_congr hparams (hsources r hr)
  cases hr : commandResult s i with
  | ok a => exact .inl ⟨a.level, a.bits, exec_of_result i hr, exec_of_result i (hsame.trans hr)⟩
  | error c => exact .inr ⟨errorCodeBits c, exec_of_error i hr, exec_of_error i (hsame.trans hr)⟩

/-! ### Executing a word is a function of the registers -/

theorem enterBusy_sameRegisters (s : State) : SameRegisters (enterBusy s) { s with busy := true } := by
  obtain ⟨q, r, h⟩ := enterBusy_frame s
  rw [h]
  exact ⟨rfl, rfl, rfl, rfl, rfl, rfl, rfl⟩

theorem commandResult_of_sameRegisters {s s' : State} (h : SameRegisters s s') (i : Instr) :
    commandResult s' i = commandResult s i := by
  have hparams : s'.params = s.params := h.1.symm
  refine commandResult_congr hparams fun r _ => readSource_congr hparams ?_
  rw [SameElement, reg_eq_of_sameRegisters h r]
  exact ⟨rfl, rfl, fun _ _ => rfl⟩

/-- States with the same registers take a word to states with the same registers. -/
theorem executeWord_sameRegisters {s s' : State} (w : Word) (h : SameRegisters s s') :
    ∃ t t', executeWord w s = .next t ∧ executeWord w s' = .next t' ∧ SameRegisters t t' := by
  have hregs := h
  obtain ⟨hparams, he, hbusy, herr, hdrop, hcode, hcmd⟩ := hregs
  have hraise : ∀ c w', SameRegisters (s.raise c w') (s'.raise c w') :=
    fun _ _ => ⟨hparams, he, hbusy, rfl, hdrop, rfl, rfl⟩
  cases hdecode : decode w with
  | error r =>
    simp only [executeWord, hdecode]
    exact ⟨_, _, rfl, rfl, hraise _ _⟩
  | ok i =>
    simp only [executeWord, hdecode, exec_eq_finishCommand_commandResult, commandResult_of_sameRegisters h]
    cases commandResult s i with
    | ok a => exact ⟨_, _, rfl, rfl, hparams, by simp only [State.writeResult_e, he], hbusy, herr, hdrop, hcode, hcmd⟩
    | error c => exact ⟨_, _, rfl, rfl, hraise c _⟩

theorem enterBusy_of_sameRegisters {s s' : State} (h : SameRegisters s s') :
    SameRegisters (enterBusy s) (enterBusy s') := by
  obtain ⟨q, r, hs⟩ := enterBusy_frame s
  obtain ⟨q', r', hs'⟩ := enterBusy_frame s'
  obtain ⟨hparams, he, -, hrecord⟩ := h
  rw [hs, hs']
  exact ⟨hparams, he, rfl, hrecord⟩

/-- Issuing a word, too, takes states with the same registers to states with the same registers. -/
theorem issueCommand_sameRegisters {s s' : State} (w : Word) (h : SameRegisters s s') :
    ∃ t t', issueCommand w s = .next t ∧ issueCommand w s' = .next t' ∧ SameRegisters t t' := by
  have hregs := h
  obtain ⟨hparams, he, hbusy, herr, hdrop, hcode, hcmd⟩ := hregs
  cases hset : s.err with
  | true =>
    exact ⟨_, _, issueCommand_of_err w hset, issueCommand_of_err w (herr.symm.trans hset),
      hparams, he, hbusy, herr, rfl, hcode, hcmd⟩
  | false =>
    rw [issueCommand_of_not_err w hset, issueCommand_of_not_err w (herr.symm.trans hset)]
    obtain ⟨t, t', ht, ht', hparams, he, -, hrecord⟩ := executeWord_sameRegisters w (enterBusy_of_sameRegisters h)
    rw [ht, ht']
    exact ⟨_, _, rfl, rfl, hparams, he, rfl, hrecord⟩

/-! ### The reads that overlap a command (R71, R246) -/

/-- What completes while a command executes is a read of ID, CONFIG or STATUS. -/
theorem completesWhileBusy_iff (ev : HostEvent) :
    ev.completesWhileBusy = true ↔ ∃ off, ev = readAt off ∧ (off = 0x000 ∨ off = 0x004 ∨ off = 0x00C) := by
  constructor
  · intro h
    obtain ⟨size, off, _ | v⟩ | b := ev
    · simp only [HostEvent.completesWhileBusy, Access.supported, Bool.and_eq_true, Bool.or_eq_true, beq_iff_eq] at h
      obtain ⟨⟨rfl, -⟩, hreg⟩ := h
      obtain ⟨hid, hconfig, -, hstatus⟩ := eq_of_registerAt_control (off := off)
      exact ⟨off, rfl, by tauto⟩
    · cases h
    · cases h
  · rintro ⟨off, rfl, rfl | rfl | rfl⟩ <;> decide

/-- What the host reads is a function of the registers. -/
theorem hostRead_of_sameRegisters {s s' : State} (h : SameRegisters s s') (off : Offset) :
    hostRead s' off = hostRead s off := by
  have hreg := reg_eq_of_sameRegisters h
  obtain ⟨hparams, -, hbusy, herr, hdrop, hcode, hcmd⟩ := h
  unfold hostRead
  cases registerAt off <;> simp only [readRegister, statusWord, hreg, hparams, hbusy, herr, hdrop, hcode, hcmd]

/-- serveBusy takes a block of the foremost reads that complete, as long as n allows or until another event. -/
theorem serveBusy_takes (n : Nat) (q : List HostEvent) (s : State) :
    ∃ taken rest, q = taken ++ rest ∧ taken.length ≤ n ∧ (∀ ev ∈ taken, ev.completesWhileBusy = true) ∧
      serveBusy n q s = { s with
        host := rest, replies := (taken.map (fun ev => hostRead s ev.offset)).reverse ++ s.replies } ∧
      (taken.length = n ∨ rest = [] ∨ ∃ ev q', rest = ev :: q' ∧ ev.completesWhileBusy = false) := by
  induction q generalizing n s with
  | nil => exact ⟨[], [], rfl, Nat.zero_le n, by simp, rfl, .inr (.inl rfl)⟩
  | cons ev q ih =>
    cases n with
    | zero => exact ⟨[], ev :: q, rfl, le_rfl, by simp, rfl, .inl rfl⟩
    | succ n =>
      cases hev : ev.completesWhileBusy with
      | false =>
        exact ⟨[], ev :: q, rfl, Nat.zero_le _, by simp, by simp [serveBusy, hev], .inr (.inr ⟨ev, q, rfl, hev⟩)⟩
      | true =>
        obtain ⟨taken, rest, hq, hlen, hall, hserve, hstop⟩ := ih n (s.reply (hostRead s ev.offset))
        refine ⟨ev :: taken, rest, by rw [hq, List.cons_append], Nat.succ_le_succ hlen, ?_, ?_, ?_⟩
        · simpa [hev] using hall
        · have hread : ∀ off, hostRead (s.reply (hostRead s ev.offset)) off = hostRead s off :=
            hostRead_of_sameRegisters ⟨rfl, rfl, rfl, rfl, rfl, rfl, rfl⟩
          simp [serveBusy, hev, hserve, hread]
        · simpa using hstop

/-! ### The statements on the step of a write to CMD -/

/-- Settles O41: the block that serveBusy takes, read in the state that differs from s in BUSY and the free-value
counter. -/
theorem readsDuringCommandSeeBusy : Obligations.ReadsDuringCommandSeeBusy := by
  intro s
  have hread : ∀ off, hostRead { s with busy := true, freeCount := s.freeCount + 1 } off =
      hostRead { s with busy := true } off :=
    hostRead_of_sameRegisters ⟨rfl, rfl, rfl, rfl, rfl, rfl, rfl⟩
  obtain ⟨taken, rest, hq, hlen, hall, hserve, hstop⟩ := serveBusy_takes (Config.overlap s.freeCount) s.host
    { s with busy := true, freeCount := s.freeCount + 1 }
  have henter : enterBusy s = { s with
      busy := true, freeCount := s.freeCount + 1, host := rest,
      replies := (taken.map (fun ev => hostRead { s with busy := true } ev.offset)).reverse ++ s.replies } := by
    simp only [hread] at hserve
    exact hserve
  have hrest : (enterBusy s).host = rest := by rw [henter]
  rw [hrest]
  refine ⟨taken, hq, hlen, fun ev hev => (completesWhileBusy_iff ev).mp (hall ev hev), henter, ?_⟩
  refine hstop.imp_right (Or.imp_right fun ⟨ev, q', hcons, hev⟩ => ⟨ev, q', hcons, fun off hoff => ?_⟩)
  have hnot : ¬ ∃ off, ev = readAt off ∧ (off = 0x000 ∨ off = 0x004 ∨ off = 0x00C) := by
    rw [← completesWhileBusy_iff, hev]
    exact Bool.false_ne_true
  exact ⟨fun h => hnot ⟨off, hoff, .inl h⟩, fun h => hnot ⟨off, hoff, .inr (.inl h)⟩,
    fun h => hnot ⟨off, hoff, .inr (.inr h)⟩⟩

/-- Settles O42: the two states differ in what is pending alone, and issuing a word is a function of the registers. -/
theorem pollingIsInvisible : Obligations.PollingIsInvisible := by
  intro s w q q' hreset
  rw [step_cmdWrite (s := { s with host := cmdWrite w :: q }) rfl hreset,
    step_cmdWrite (s := { s with host := cmdWrite w :: q' }) rfl hreset]
  exact issueCommand_sameRegisters w ⟨rfl, rfl, rfl, rfl, rfl, rfl, rfl⟩

/-- Settles O35: the step as issueCommand gives it for a word that decodes. -/
theorem stepRunsDecodedCommand : Obligations.StepRunsDecodedCommand :=
  fun s q _ _ hhost hreset herr hdecode =>
    ⟨step_cmdWrite_of_decode hhost hreset herr hdecode, enterBusy_sameRegisters { s with host := q }⟩

/-- Settles O36: the record is taken in the state of enterBusy, whose registers are those before. -/
theorem stepRecordsIllegalWord : Obligations.StepRecordsIllegalWord := by
  intro s q w r hhost hreset herr hdecode
  have hexec : executeWord w (enterBusy { s with host := q }) =
      .next ((enterBusy { s with host := q }).raise .illegalCommand w) := by simp only [executeWord, hdecode]
  have hbase := commandBase_enterBusy s q
  obtain ⟨hparams, he, -, -, hdrop, -, -⟩ := hbase.same
  rw [step_cmdWrite hhost hreset, issueCommand_of_not_err (s := { s with host := q }) w herr, hexec]
  exact ⟨_, rfl, hparams.symm, he.symm, rfl, rfl, hdrop.symm, rfl, rfl, hbase.resetIn.trans hreset⟩

/-- Settles O48: the read takes the access from the pending ones, of which its register shows nothing. -/
theorem readHasNoSideEffect : Obligations.ReadHasNoSideEffect := by
  intro s q off hhost haligned hreset
  have hread : hostRead { s with host := q } off = hostRead s off :=
    hostRead_of_sameRegisters ⟨rfl, rfl, rfl, rfl, rfl, rfl, rfl⟩ off
  rw [step_readAt hhost hreset haligned, hread]
  rfl

end Sys2Proof.Machine
end

section
/-! PROOFS. Laws of the tower arithmetic under any CONSTS (40_bitvector.md, 42_multiply.md, 43_invert.md,
45_divide.md), each a statement of its own, and the operation counts (70_reset_and_hazards.md section 4). The laws of
mul_k, the conjugate and inversion stand above with INV; here they are said of zero_k, one_k and X_k. -/

namespace Sys2Proof.Machine

/-! ### The elements zero_k, one_k and X_k (R14, R123, R124) -/

theorem zeroElem_eq_zero (k : Nat) : zeroElem k = 0#(2 ^ k) := rfl

@[simp] theorem mulElem_oneElem (p : Params) (k : Nat) (a : BitVec (2 ^ k)) : mulElem p k a (oneElem k) = a := by
  rw [oneElem_eq_one]
  exact mulElem_one p k a

@[simp] theorem oneElem_mulElem (p : Params) (k : Nat) (a : BitVec (2 ^ k)) : mulElem p k (oneElem k) a = a := by
  rw [mulElem_comm, mulElem_oneElem]

@[simp] theorem hiHalf_generator (k : Nat) : hiHalf k (generator k) = oneElem k := hiHalf_joinHalves k _ _

@[simp] theorem loHalf_generator (k : Nat) : loHalf k (generator k) = 0#(2 ^ k) := loHalf_joinHalves k _ _

@[simp] theorem hiHalf_oneElem (k : Nat) : hiHalf k (oneElem (k + 1)) = 0#(2 ^ k) := hiHalf_joinHalves k _ _

@[simp] theorem loHalf_oneElem (k : Nat) : loHalf k (oneElem (k + 1)) = oneElem k := loHalf_joinHalves k _ _

/-- X^2 = c X + 1 (R35): the rule of multiplication folds the square of the generator so. -/
theorem generator_sq (p : Params) (k : Nat) :
    mulElem p (k + 1) (generator k) (generator k) = joinHalves k (extConst p k) (oneElem k) := by
  simp only [mulElem_level_succ, hiHalf_generator, loHalf_generator, mulElem_zero, mulElem_oneElem, BitVec.xor_zero,
    BitVec.zero_xor]

/-- An element of T_k times X_k stands in the hi half. -/
theorem embedded_mulElem_generator (p : Params) (k : Nat) (n : BitVec (2 ^ k)) :
    mulElem p (k + 1) (joinHalves k (zeroElem k) n) (generator k) = joinHalves k n (zeroElem k) := by
  rw [generator, zeroElem_eq_zero, mulElem_joinHalves_zero, mulElem_oneElem, mulElem_zero]

/-! ### Inverses of one_k and X_k under any CONSTS (R176) -/

theorem conjLo_oneElem (p : Params) (k : Nat) : conjLo p k (oneElem (k + 1)) = oneElem k := by
  simp [conjLo, addElem]

theorem normElem_oneElem (p : Params) (k : Nat) : normElem p k (oneElem (k + 1)) = oneElem k := by
  simp [normElem_eq]

theorem invElem_oneElem (p : Params) (k : Nat) : invElem p k (oneElem k) = .ok (oneElem k) := by
  induction k with
  | zero => rfl
  | succ k ih =>
    rw [← normElem_oneElem] at ih
    rw [invElem_level_succ_ok ih, normElem_oneElem, conjLo_oneElem, hiHalf_oneElem, mulElem_zero, mulElem_oneElem]
    rfl

theorem conjLo_generator (p : Params) (k : Nat) : conjLo p k (generator k) = extConst p k := by
  simp [conjLo, addElem]

theorem normElem_generator (p : Params) (k : Nat) : normElem p k (generator k) = oneElem k := by
  simp [normElem_eq]

/-- The inverse of X_k is X_k + c, its conjugate, since its norm is one. -/
theorem invElem_generator (p : Params) (k : Nat) :
    invElem p (k + 1) (generator k) = .ok (joinHalves k (oneElem k) (extConst p k)) := by
  have hnorm : invElem p k (normElem p k (generator k)) = .ok (oneElem k) := by
    rw [normElem_generator, invElem_oneElem]
  rw [invElem_level_succ_ok hnorm, conjLo_generator, hiHalf_generator, oneElem_mulElem, oneElem_mulElem]

/-! ### The statements under any CONSTS -/

/-- Settles O7: the halves of a join, and XOR with itself and with zero, all bit by bit. -/
theorem splitAndJoinInvert : Obligations.SplitAndJoinInvert := by
  refine ⟨joinHalves_hiHalf_loHalf, fun k h l => ⟨hiHalf_joinHalves k h l, loHalf_joinHalves k h l, ?_⟩,
    fun k a => ⟨addElem_self k a, addElem_zeroElem k a⟩⟩
  rw [splitElem, hiHalf_joinHalves, loHalf_joinHalves]

/-- Settles O8: the recursion of R124 builds the number 1. -/
theorem oneIsBitZeroAndIdentity : Obligations.OneIsBitZeroAndIdentity := by
  refine ⟨rfl, fun _ => rfl, fun k i => ?_, fun p k a => ⟨mulElem_oneElem p k a, oneElem_mulElem p k a⟩⟩
  rw [oneElem_eq_one]
  simp [BitVec.getLsbD_one]

/-- Settles O9: each law by induction on the level, X^2 folding alike on both sides. -/
theorem multiplicationLaws : Obligations.MultiplicationLaws :=
  fun p k a b c => ⟨mulElem_comm p k a b, mulElem_assoc p k a b c, mulElem_xor p k a b c, mulElem_oneElem p k a,
    mulElem_zero p k a⟩

/-- Settles O11: the rule of multiplication at the generator, whose lo half is zero. -/
theorem generatorRelation : Obligations.GeneratorRelation := generator_sq

/-- Settles O13: the coefficient of X cancels in the product. -/
theorem conjugateProductIsNorm : Obligations.ConjugateProductIsNorm := mulElem_conjugate

/-- Settles O14: under R37 no norm on the way down to the base field is zero, where 0 alone has no inverse. -/
theorem inversionCorrect : Obligations.InversionCorrect := by
  refine ⟨fun p hp k hk a ha => ?_, fun p k => invElem_zero⟩
  obtain ⟨r, hr⟩ := invElem_of_ne_zero hp hk ha
  exact ⟨r, hr, (mulElem_invElem hr).trans (oneElem_eq_one k).symm⟩

theorem invElem_level_succ_error_iff (p : Params) (k : Nat) (a : BitVec (2 ^ (k + 1))) (c : ErrorCode) :
    invElem p (k + 1) a = .error c ↔ invElem p k (normElem p k a) = .error c := by
  refine ⟨fun h => ?_, invElem_level_succ_error⟩
  cases hn : invElem p k (normElem p k a) with
  | error d => exact congrArg Except.error (Except.error.inj ((invElem_level_succ_error hn).symm.trans h))
  | ok n => rw [invElem_level_succ_ok hn] at h; cases h

/-- Settles O15: an answer is the conjugate divided by the norm, and an error that of the norm's inversion. -/
theorem inversionSoundUnderAnyConstants : Obligations.InversionSoundUnderAnyConstants :=
  ⟨fun _ k _ _ h => (mulElem_invElem h).trans (oneElem_eq_one k).symm, fun _ _ _ _ => invElem_error,
    invElem_level_succ_error_iff⟩

/-- Settles O17: with r the inverse of b, the quotient of a by b is a r. -/
theorem divisionLaws : Obligations.DivisionLaws := by
  intro p hp k hk a b hb
  obtain ⟨r, hr⟩ := invElem_of_ne_zero hp hk hb
  have hbr : mulElem p k b r = oneElem k := (mulElem_invElem hr).trans (oneElem_eq_one k).symm
  refine ⟨⟨_, divElem_of_invElem_ok hr, mulElem_quotient hr⟩, ?_, ?_, ?_⟩
  · rw [divElem_of_invElem_ok (invElem_oneElem p k), mulElem_oneElem]
  · rw [divElem_of_invElem_ok hr, hbr]
  · rw [divElem_of_invElem_ok hr, oneElem_mulElem, hr]

/-- Settles O20: with hi halves zero only the product of the lo halves is left. -/
theorem lowerFieldEmbeds : Obligations.LowerFieldEmbeds := by
  intro p k a b
  refine ⟨?_, ?_⟩
  · rw [zeroElem_eq_zero, mulElem_joinHalves_zero, mulElem_zero]
  · simp [normElem_eq, zeroElem_eq_zero]

/-! ### Level 1 (R152) -/

/-- Multiplication at level 1 by halves, with c_1 = 1. -/
theorem mulElem_level_one {p : Params} (hc : extConst p 0 = 1#1) (a b : BitVec 2) :
    mulElem p 1 a b =
      joinHalves 0
        ((hiHalf 0 a &&& loHalf 0 b) ^^^ (loHalf 0 a &&& hiHalf 0 b) ^^^ (hiHalf 0 a &&& hiHalf 0 b))
        ((loHalf 0 a &&& loHalf 0 b) ^^^ (hiHalf 0 a &&& hiHalf 0 b)) := by
  have hone : ∀ v : BitVec (2 ^ 0), mulElem p 0 (extConst p 0) v = v := by
    intro v
    rw [hc]
    exact oneElem_mulElem p 0 v
  rw [mulElem_level_succ, hone]
  rfl

/-- Settles O10: with c_1 = 1 the coefficient of X folds without a product, and one bit of each half is left. -/
theorem levelOneProducts : Obligations.LevelOneProducts := by
  intro p hc
  refine ⟨fun a b => ?_, fun a => ⟨zero_mulElem p 1 a, mulElem_zero p 1 a, oneElem_mulElem p 1 a,
    mulElem_oneElem p 1 a⟩, ?_⟩
  · rw [mulElem_level_one hc]
    simp only [getLsbD_joinHalves, getLsbD_hiHalf, getLsbD_loHalf, BitVec.getLsbD_xor, BitVec.getLsbD_and]
    simp
  · simp only [mulElem_level_one hc]
    decide

/-! ### Operation counts (R155, R177, R248) -/

theorem mulAnds_eq (k : Nat) : mulAnds k = 5 ^ k := by
  induction k with
  | zero => rfl
  | succ k ih => rw [mulAnds, ih, Nat.pow_succ']

/-- The geometric sum of the products at every level below. -/
theorem four_mul_invAnds (k : Nat) : 4 * invAnds k + 5 = 5 ^ (k + 1) := by
  induction k with
  | zero => rfl
  | succ k ih => rw [invAnds, mulAnds_eq, Nat.pow_succ' (n := k + 1), ← ih]; omega

/-- Settles O21: a power of five, a geometric sum of such powers, and the sum of the two. -/
theorem referenceOperationCounts : Obligations.ReferenceOperationCounts := by
  intro k
  have hinv : invAnds k = (5 ^ (k + 1) - 5) / 4 := by
    rw [← four_mul_invAnds, Nat.add_sub_cancel, Nat.mul_div_cancel_left _ (by decide)]
  exact ⟨mulAnds_eq k, hinv, by rw [divAnds, hinv, mulAnds_eq]⟩

end Sys2Proof.Machine
end

section
/-! PROOFS. The tower with the default constants (R36, R37, R153, R176). First the constants and the closed forms; then,
for R37, that no modulus has a root in the level below: a root of X^2 + X_k X + 1 in T_(k+1) yields an r of T_k with
r^2 = r + c, and with c = X_(k-1) that one yields a root of the modulus before, down to the base field; then norms. -/

namespace Sys2Proof.Machine

/-! ### The default constants (R36) and the closed forms (R153, R176) -/

theorem extConst_default_zero (m : Fin 9) : extConst (defaultParams m) 0 = oneElem 0 := rfl

theorem getLsbD_generator (k i : Nat) : (generator k).getLsbD i = decide (i = 2 ^ k) := by
  have hpos : 0 < 2 ^ k := Nat.two_pow_pos k
  rw [generator, oneElem_eq_one, zeroElem_eq_zero, getLsbD_joinHalves]
  split_ifs with hlow
  · simp [hlow.ne]
  · simp [BitVec.getLsbD_one, show i - 2 ^ k = 0 ↔ i = 2 ^ k by omega]

theorem generator_eq_shiftLeft (k : Nat) : generator k = 1#(2 ^ (k + 1)) <<< (2 ^ k) := by
  refine BitVec.eq_of_getLsbD_eq fun i hi => ?_
  rw [getLsbD_generator, BitVec.getLsbD_shiftLeft, BitVec.getLsbD_one]
  grind

/-- c_(k+2) = X_k, for every constant the table holds. -/
theorem extConst_default_succ (m : Fin 9) {k : Nat} (hk : k < 7) :
    extConst (defaultParams m) (k + 1) = generator k := by
  have hentry : (defaultParams m).consts[k + 1]? = some (1#128 <<< (2 ^ k)) := by
    interval_cases k <;> rfl
  have hwidth : 2 ^ k < 128 := Nat.pow_lt_pow_right (by decide) hk
  rw [extConst, hentry]
  refine BitVec.eq_of_getLsbD_eq fun i hi => ?_
  rw [getLsbD_generator, Option.getD_some, BitVec.getLsbD_setWidth, BitVec.getLsbD_shiftLeft, BitVec.getLsbD_one]
  grind

/-- Settles O12: X^2 = cX + 1 under any constants, with c = X_(k-2) at level k. -/
theorem defaultGeneratorSquares : Obligations.DefaultGeneratorSquares := by
  intro m
  refine ⟨fun k _ => ?_, ?_, ?_, fun k hlow hhigh i => ?_⟩
  · rw [generator_sq, embedded_mulElem_generator, oneElem, addElem, joinHalves_xor]
    simp [zeroElem_eq_zero]
  · rw [generator_sq, extConst_default_zero]
    decide
  · rw [generator_sq, extConst_default_succ m (by decide)]
    decide
  · obtain ⟨j, rfl⟩ := Nat.exists_eq_add_of_le' hlow
    have hshift : (1#(2 ^ (j + 2))) <<< (2 ^ (j + 2 - 1)) = generator (j + 1) := (generator_eq_shiftLeft (j + 1)).symm
    rw [hshift, generator_sq, extConst_default_succ m (by omega), getLsbD_joinHalves, oneElem_eq_one, getLsbD_generator]
    have hpos : 0 < 2 ^ j := Nat.two_pow_pos j
    simp only [BitVec.ofNat_eq_ofNat, BitVec.getLsbD_one, show j + 2 - 1 = j + 1 by omega, show j + 2 - 2 = j by omega]
    grind

/-- Settles O16: the norms of one_k and X_k are one; the rest is level 1 and 2 evaluated. -/
theorem closedFormInverses : Obligations.ClosedFormInverses := by
  intro m
  refine ⟨fun k _ => invElem_oneElem _ k, fun k _ => invElem_generator _ k, ?_⟩
  revert m
  decide

/-! ### Roots of the moduli (R35, R37) -/

theorem eq_iff_halves {k : Nat} (a b : BitVec (2 ^ (k + 1))) :
    a = b ↔ hiHalf k a = hiHalf k b ∧ loHalf k a = loHalf k b := by
  refine ⟨fun h => h ▸ ⟨rfl, rfl⟩, fun ⟨hhi, hlo⟩ => ?_⟩
  rw [← joinHalves_hiHalf_loHalf k a, hhi, hlo, joinHalves_hiHalf_loHalf]

/-- Terms of an equation in characteristic 2 change sides. -/
theorem xor_exchange {n : Nat} {x y z w : BitVec n} (h : x ^^^ y = z ^^^ w) : x ^^^ w = z ^^^ y := by
  rw [← BitVec.xor_left_inj (y ^^^ w)]
  calc x ^^^ w ^^^ (y ^^^ w)
    _ = x ^^^ y ^^^ (w ^^^ w) := by ac_rfl
    _ = z ^^^ w ^^^ (y ^^^ y) := by rw [h, BitVec.xor_self, BitVec.xor_self]
    _ = z ^^^ y ^^^ (y ^^^ w) := by ac_rfl

section
variable {p : Params} {k : Nat}

/-- t is a root of X^2 + c X + 1, the modulus of T_(k+1), in T_k. -/
def ModulusRoot (p : Params) (k : Nat) (t : BitVec (2 ^ k)) : Prop :=
  mulElem p k t t = mulElem p k (extConst p k) t ^^^ oneElem k

theorem mulElem_self_level_succ (a : BitVec (2 ^ (k + 1))) :
    mulElem p (k + 1) a a = joinHalves k (mulElem p k (extConst p k) (mulElem p k (hiHalf k a) (hiHalf k a)))
      (mulElem p k (loHalf k a) (loHalf k a) ^^^ mulElem p k (hiHalf k a) (hiHalf k a)) := by
  rw [mulElem_level_succ, mulElem_comm p k (hiHalf k a) (loHalf k a), BitVec.xor_self, BitVec.zero_xor]

theorem generator_mulElem (a : BitVec (2 ^ (k + 1))) :
    mulElem p (k + 1) (generator k) a =
      joinHalves k (loHalf k a ^^^ mulElem p k (extConst p k) (hiHalf k a)) (hiHalf k a) := by
  simp [mulElem_level_succ]

/-- The square of a sum, in characteristic 2. -/
theorem mulElem_self_xor (a b : BitVec (2 ^ k)) :
    mulElem p k (a ^^^ b) (a ^^^ b) = mulElem p k a a ^^^ mulElem p k b b := by
  have hcross : mulElem p k a b ^^^ mulElem p k b a = 0#(2 ^ k) := by rw [mulElem_comm p k b, BitVec.xor_self]
  calc mulElem p k (a ^^^ b) (a ^^^ b)
    _ = mulElem p k a a ^^^ mulElem p k b b ^^^ (mulElem p k a b ^^^ mulElem p k b a) := by
      rw [xor_mulElem, mulElem_xor, mulElem_xor]; ac_rfl
    _ = mulElem p k a a ^^^ mulElem p k b b := by rw [hcross, BitVec.xor_zero]

/-- The two halves of the equation of a root, where c is the generator below. -/
theorem modulusRoot_level_succ_iff (hc : extConst p (k + 1) = generator k) (t : BitVec (2 ^ (k + 1))) :
    ModulusRoot p (k + 1) t ↔
      mulElem p k (extConst p k) (mulElem p k (hiHalf k t) (hiHalf k t)) =
        loHalf k t ^^^ mulElem p k (extConst p k) (hiHalf k t) ∧
      mulElem p k (loHalf k t) (loHalf k t) ^^^ mulElem p k (hiHalf k t) (hiHalf k t) =
        hiHalf k t ^^^ oneElem k := by
  rw [ModulusRoot, hc, mulElem_self_level_succ, generator_mulElem, eq_iff_halves]
  simp only [hiHalf_xor, loHalf_xor, hiHalf_joinHalves, loHalf_joinHalves, hiHalf_oneElem, loHalf_oneElem,
    BitVec.xor_zero]

/-- One level down: with t = t1 X + t0 the element c (t0 + 1) of T_k solves r^2 = r + c. -/
theorem exists_sq_eq_of_modulusRoot (hc : extConst p (k + 1) = generator k) {t : BitVec (2 ^ (k + 1))}
    (h : ModulusRoot p (k + 1) t) : ∃ r, mulElem p k r r = r ^^^ extConst p k := by
  obtain ⟨hhi, hlo⟩ := (modulusRoot_level_succ_iff hc t).mp h
  generalize hiHalf k t = t1 at hhi hlo
  generalize loHalf k t = t0 at hhi hlo
  generalize extConst p k = c at hhi hlo ⊢
  have hw : mulElem p k t0 t0 ^^^ oneElem k = t1 ^^^ mulElem p k t1 t1 :=
    xor_exchange hlo
  have hcw : mulElem p k c (t1 ^^^ mulElem p k t1 t1) = t0 := by
    rw [mulElem_xor, hhi, BitVec.xor_comm t0, ← BitVec.xor_assoc, BitVec.xor_self, BitVec.zero_xor]
  refine ⟨mulElem p k c (t0 ^^^ oneElem k), ?_⟩
  calc mulElem p k (mulElem p k c (t0 ^^^ oneElem k)) (mulElem p k c (t0 ^^^ oneElem k))
    _ = mulElem p k c (mulElem p k c (mulElem p k (t0 ^^^ oneElem k) (t0 ^^^ oneElem k))) := by
      rw [mulElem_assoc, mulElem_left_comm p k (t0 ^^^ oneElem k)]
    _ = mulElem p k c t0 := by rw [mulElem_self_xor, mulElem_oneElem, hw, hcw]
    _ = mulElem p k c (t0 ^^^ oneElem k) ^^^ c := by
      rw [mulElem_xor, mulElem_oneElem, BitVec.xor_assoc, BitVec.xor_self, BitVec.xor_zero]

/-- Within T_(k+1): from r = r1 X + r0 with r^2 = r + X the element r0 X + (r1 + 1) is a root of X^2 + X_k X + 1. -/
theorem exists_modulusRoot_of_sq_eq (hc : extConst p (k + 1) = generator k) {r : BitVec (2 ^ (k + 1))}
    (h : mulElem p (k + 1) r r = r ^^^ generator k) : ∃ t, ModulusRoot p (k + 1) t := by
  obtain ⟨hhi, hlo⟩ := (eq_iff_halves _ _).mp h
  simp only [mulElem_self_level_succ, hiHalf_xor, loHalf_xor, hiHalf_joinHalves, loHalf_joinHalves, hiHalf_generator,
    loHalf_generator, BitVec.xor_zero] at hhi hlo
  refine ⟨joinHalves k (loHalf k r) (hiHalf k r ^^^ oneElem k), (modulusRoot_level_succ_iff hc _).mpr ?_⟩
  rw [hiHalf_joinHalves, loHalf_joinHalves]
  generalize hiHalf k r = r1 at hhi hlo ⊢
  generalize loHalf k r = r0 at hhi hlo ⊢
  have hr0 : mulElem p k r0 r0 = r0 ^^^ mulElem p k r1 r1 := by
    calc mulElem p k r0 r0
      _ = mulElem p k r0 r0 ^^^ mulElem p k r1 r1 ^^^ mulElem p k r1 r1 := by
        rw [BitVec.xor_assoc, BitVec.xor_self, BitVec.xor_zero]
      _ = r0 ^^^ mulElem p k r1 r1 := by rw [hlo]
  constructor
  · rw [hr0, mulElem_xor, hhi, BitVec.xor_comm]
  · calc mulElem p k (r1 ^^^ oneElem k) (r1 ^^^ oneElem k) ^^^ mulElem p k r0 r0
      _ = mulElem p k r0 r0 ^^^ mulElem p k r1 r1 ^^^ oneElem k := by
        rw [mulElem_self_xor, mulElem_oneElem]; ac_rfl
      _ = r0 ^^^ oneElem k := by rw [hlo]

/-- A nonzero element of norm zero: a0 / a1 is a root of the modulus. -/
theorem exists_modulusRoot_of_normElem_eq_zero {a : BitVec (2 ^ (k + 1))} {n : BitVec (2 ^ k)}
    (hn : mulElem p k (hiHalf k a) n = oneElem k) (h : normElem p k a = 0#(2 ^ k)) : ∃ t, ModulusRoot p k t := by
  have hcomm : Std.Commutative (mulElem p k) := ⟨mulElem_comm p k⟩
  have hassoc : Std.Associative (mulElem p k) := ⟨mulElem_assoc p k⟩
  rw [normElem_eq, BitVec.xor_eq_zero_iff] at h
  generalize hiHalf k a = a1 at hn h
  generalize loHalf k a = a0 at h
  have hsq : mulElem p k a0 a0 = mulElem p k a0 (mulElem p k (extConst p k) a1) ^^^ mulElem p k a1 a1 := by
    rw [← h, mulElem_xor, BitVec.xor_comm (mulElem p k a0 a0), ← BitVec.xor_assoc, BitVec.xor_self, BitVec.zero_xor]
  refine ⟨mulElem p k n a0, ?_⟩
  calc mulElem p k (mulElem p k n a0) (mulElem p k n a0)
    _ = mulElem p k n (mulElem p k n (mulElem p k a0 a0)) := by ac_rfl
    _ = mulElem p k (mulElem p k a1 n) (mulElem p k (extConst p k) (mulElem p k n a0)) ^^^
          mulElem p k (mulElem p k a1 n) (mulElem p k a1 n) := by
      rw [hsq, mulElem_xor, mulElem_xor]; congr 1 <;> ac_rfl
    _ = mulElem p k (extConst p k) (mulElem p k n a0) ^^^ oneElem k := by
      rw [hn, oneElem_mulElem, oneElem_mulElem]

end

/-! ### Norms (R37, R170) -/

section
variable {p : Params} {k : Nat}

/-- Where the levels below are fields and the modulus has no root, no nonzero element has norm zero. -/
theorem normElem_ne_zero (hp : ConstsIrreducible p) (hk : k ≤ p.maxLevel.val) (hroot : ∀ t, ¬ ModulusRoot p k t)
    {a : BitVec (2 ^ (k + 1))} (ha : a ≠ 0) : normElem p k a ≠ 0 := by
  intro hnorm
  by_cases hhi : hiHalf k a = 0#(2 ^ k)
  · have hsq : mulElem p k (loHalf k a) (loHalf k a) = 0#(2 ^ k) := by
      simpa [normElem_eq, hhi] using hnorm
    have hlo : loHalf k a ≠ 0#(2 ^ k) := by
      intro hlo
      exact ha (by rw [← joinHalves_hiHalf_loHalf k a, hhi, hlo]; exact joinHalves_zero_zero k)
    obtain ⟨r, hr⟩ := invElem_of_ne_zero hp hk hlo
    refine hlo ?_
    calc loHalf k a
      _ = mulElem p k (mulElem p k (loHalf k a) (loHalf k a)) r := by
        rw [mulElem_assoc, mulElem_invElem hr, mulElem_one]
      _ = 0#(2 ^ k) := by rw [hsq, zero_mulElem]
  · obtain ⟨n, hn⟩ := invElem_of_ne_zero hp hk hhi
    have hone : mulElem p k (hiHalf k a) n = oneElem k := (mulElem_invElem hn).trans (oneElem_eq_one k).symm
    obtain ⟨t, ht⟩ := exists_modulusRoot_of_normElem_eq_zero hone hnorm
    exact hroot t ht

end

/-! ### The moduli of the default constants (R37) -/

/-- In the base field r^2 + r is zero, never one. -/
theorem mulElem_self_ne_xor_one (p : Params) (r : BitVec (2 ^ 0)) : mulElem p 0 r r ≠ r ^^^ oneElem 0 := by
  rw [mulElem_level_zero]
  revert r
  decide

/-- No modulus to level 8 has a root in the level below. -/
theorem not_modulusRoot_default (m : Fin 9) {k : Nat} (hk : k < 8) (t : BitVec (2 ^ k)) :
    ¬ ModulusRoot (defaultParams m) k t := by
  intro h
  induction k with
  | zero =>
    rw [ModulusRoot, extConst_default_zero, oneElem_mulElem] at h
    exact mulElem_self_ne_xor_one _ t h
  | succ k ih =>
    obtain ⟨r, hr⟩ := exists_sq_eq_of_modulusRoot (extConst_default_succ m (by omega)) h
    cases k with
    | zero =>
      rw [extConst_default_zero] at hr
      exact mulElem_self_ne_xor_one _ r hr
    | succ j =>
      have hc := extConst_default_succ m (k := j) (by omega)
      rw [hc] at hr
      obtain ⟨t', ht'⟩ := exists_modulusRoot_of_sq_eq hc hr
      exact ih (by omega) t' ht'

/-- MAX_LEVEL is no part of the arithmetic. -/
theorem mulElem_maxLevel (p : Params) (m : Fin 9) (k : Nat) (a b : BitVec (2 ^ k)) :
    mulElem { p with maxLevel := m } k a b = mulElem p k a b := by
  induction k with
  | zero => rfl
  | succ k ih => simp only [mulElem_level_succ, ih, extConst]

theorem normElem_maxLevel (p : Params) (m : Fin 9) (k : Nat) (a : BitVec (2 ^ (k + 1))) :
    normElem { p with maxLevel := m } k a = normElem p k a := by
  simp only [normElem_eq, mulElem_maxLevel, extConst]

/-- Settles O19: level by level, as the norm of level k + 1 needs inverses in T_k, which the norms below give. -/
theorem defaultConstantsAreIrreducible : Obligations.DefaultConstantsAreIrreducible := by
  intro ⟨n, hn⟩
  induction n with
  | zero => exact fun k hk => absurd hk (Nat.not_lt_zero k)
  | succ n ih =>
    intro k hk a ha hnorm
    have hbelow : ConstsIrreducible (defaultParams ⟨n, by omega⟩) := ih (by omega)
    have hnorm' : normElem (defaultParams ⟨n, by omega⟩) k a = 0 :=
      (normElem_maxLevel (defaultParams ⟨n + 1, hn⟩) ⟨n, by omega⟩ k a).trans hnorm
    obtain hlt | rfl := Nat.lt_succ_iff_lt_or_eq.mp hk
    · exact hbelow k hlt a ha hnorm'
    · exact normElem_ne_zero hbelow le_rfl (not_modulusRoot_default _ (Nat.succ_lt_succ_iff.mp hn)) ha hnorm'

end Sys2Proof.Machine
end

section
/-! PROOFS. Commands in sequence (30_encoding.md section 5, 45_divide.md section 1): DIV and then MUL, and the
pseudo-instructions. First what a result, once written, is to the next command; then the two statements; last the
worked encodings (30_encoding.md section 3), the base of the window (20_memory.md section 1) and the reset values
(10_state.md section 6). -/

namespace Sys2Proof.Machine

/-! ### A result as the source of the next command (R103, R105) -/

section
variable {s : State} {rd : RegIdx} {k : Nat} {v : BitVec (2 ^ k)}

theorem reg_holding_self : (s.holding rd k v).reg rd = ⟨true, BitVec.ofNat 4 k, v.setWidth 256⟩ :=
  reg_setReg_self s rd _

theorem reg_holding_ne {r : RegIdx} (h : r ≠ rd) : (s.holding rd k v).reg r = s.reg r :=
  reg_setReg_ne s rd r _ h

theorem ready_holding_ne {r : RegIdx} (h : r ≠ rd) : (s.holding rd k v).Ready r ↔ s.Ready r := by
  rw [State.Ready, reg_holding_ne h]

theorem levelOf_holding_ne {r : RegIdx} (h : r ≠ rd) : (s.holding rd k v).levelOf r = s.levelOf r := by
  rw [State.levelOf, reg_holding_ne h]

theorem elemAt_holding_ne {r : RegIdx} (h : r ≠ rd) (j : Nat) : (s.holding rd k v).elemAt r j = s.elemAt r j := by
  rw [State.elemAt, reg_holding_ne h]

/-- A second result in the same register is all that is left of the two. -/
theorem holding_holding {j : Nat} (u : BitVec (2 ^ j)) :
    (s.holding rd k v).holding rd j u = s.holding rd j u := by
  simp [State.holding, Vector.set_set]

theorem levelOf_holding_self (hk : k ≤ s.params.maxLevel.val) : (s.holding rd k v).levelOf rd = k := by
  have hlevel : s.params.maxLevel.val < 9 := s.params.maxLevel.isLt
  rw [State.levelOf, reg_holding_self, BitVec.toNat_ofNat]
  omega

theorem ready_holding_self (hk : k ≤ s.params.maxLevel.val) : (s.holding rd k v).Ready rd :=
  ⟨by rw [reg_holding_self], (levelOf_holding_self hk).trans_le hk⟩

/-- The element comes back whole, since DATA is as wide as the deepest level. -/
theorem elemAt_holding_self (hk : k ≤ s.params.maxLevel.val) : (s.holding rd k v).elemAt rd k = v := by
  have hlevel : s.params.maxLevel.val < 9 := s.params.maxLevel.isLt
  have hwidth : 2 ^ k ≤ 256 := Nat.pow_le_pow_right (by decide) (by omega : k ≤ 8)
  rw [State.elemAt, reg_holding_self]
  exact (BitVec.setWidth_setWidth_of_le v hwidth).trans (BitVec.setWidth_eq v)

end

/-- Settles O33: the quotient that DIV writes is the first source of MUL, the divisor is still in place, and a quotient
times its divisor is the dividend. -/
theorem divideThenMultiplyRestores : Obligations.DivideThenMultiplyRestores := by
  intro s rd rs1 rs2 hp h1 h2 heq hne hrd
  obtain ⟨-, hdiv⟩ := divCommand s
  obtain ⟨-, hquotient, -⟩ := hdiv rd rs1 rs2
  obtain ⟨q, hq, hexec⟩ := hquotient hp h1 h2 heq hne
  refine ⟨_, hexec, ?_⟩
  obtain ⟨-, hmul⟩ := mulCommand (s.holding rd (s.levelOf rs1) q)
  obtain ⟨hproduct, -⟩ := hmul rd rd rs2
  rw [levelOf_holding_self h1.2, levelOf_holding_ne hrd.symm, elemAt_holding_self h1.2, elemAt_holding_ne hrd.symm,
    ready_holding_ne hrd.symm] at hproduct
  rw [hproduct (ready_holding_self h1.2) h2 heq, hq, holding_holding]

/-- Settles O34: SQR and CLR are MUL and ADD of a source with itself; the two commands of SPLIT read one source, which
HI leaves in place as it writes another register. -/
theorem pseudoInstructions : Obligations.PseudoInstructions := by
  refine ⟨fun rd rs => ⟨rfl, rfl⟩, fun rh rl rs => rfl, fun s rd rs hready => ⟨?_, ?_⟩,
    fun s rh rl rs k hne hready hlevel => ⟨_, ?_, rfl, ?_⟩⟩
  · obtain ⟨-, hmul⟩ := mulCommand s
    obtain ⟨hproduct, -⟩ := hmul rd rs rs
    exact hproduct hready hready rfl
  · obtain ⟨-, hadd⟩ := addCommand s
    obtain ⟨hsum, -⟩ := hadd rd rs rs
    exact (hsum hready hready rfl).trans (by rw [BitVec.xor_self]; rfl)
  · obtain ⟨-, hhi⟩ := hiCommand s
    obtain ⟨hupper, -⟩ := hhi rh rs
    exact hupper k hready hlevel
  · obtain ⟨-, hlo⟩ := loCommand (s.holding rh k ((s.reg rs).data.extractLsb' (2 ^ k) (2 ^ k)))
    obtain ⟨hlower, -⟩ := hlo rl rs
    rw [ready_holding_ne hne.symm, levelOf_holding_ne hne.symm, reg_holding_ne hne.symm] at hlower
    exact hlower k hready hlevel

/-! ### Encodings, the base of the window, and the reset values -/

/-- Settles O4: the words and commands are closed, so both functions are evaluated. -/
theorem workedEncodings : Obligations.WorkedEncodings := by
  unfold Obligations.WorkedEncodings
  decide

/-- Settles O50: TAU_BASE is a multiple of 4096 whatever its page is. -/
theorem windowStandsAtBase : Obligations.WindowStandsAtBase := by
  refine ⟨Nat.mul_mod_right 4096 _, fun n hn => ?_, fun addr haddr => if_neg (by omega)⟩
  rw [windowOffset, if_pos ⟨Nat.le_add_right _ n, Nat.add_lt_add_left hn _⟩, Nat.add_sub_cancel_left]

/-- Settles O51: every register is empty and every other piece of state 0, and the words that the window makes of
those are 0; ID, CONFIG and the constants depend on the configuration alone. -/
theorem resetValues : Obligations.ResetValues := by
  refine fun p => ⟨⟨reg_resetWith p, rfl, rfl, rfl, rfl, rfl⟩, rfl, hostRead_id _, hostRead_cmd _, ?status,
    hostRead_errCmd _, fun i w => ⟨?tag, ?data⟩, (hostRead_config _).trans (configWord_eq_append p),
    fun s k w hp => ?const, rfl⟩
  case status => exact (hostRead_status _).trans (by simp [statusWord, bitAt])
  case tag => rw [hostRead_tagOffset, reg_resetWith]; rfl
  case data => rw [hostRead_dataOffset, reg_resetWith]; simp [dataWord, emptyReg]
  case const => rw [hostRead_constOffset, hostRead_constOffset, hp]; rfl

end Sys2Proof.Machine
end
